-- ==== Sys2Proof/Word.lean ====
section
/-! DEFINITION. The words of the ARQ engine: bytes and 32-bit wire integers (`00_scope.md` R8, R9). -/

namespace Sys2Proof

/-- "A byte is 8 bits" (R9). -/
abbrev Byte := BitVec 8

/-- The three wire integers, the timer key and the duration are `INT_W = 32` bits (R8). -/
abbrev Word32 := BitVec 32

end Sys2Proof
end

