-- ==== Sys2Proof/Config.lean ====
section
/-! DEFINITION. The configuration of a block: the four straps and the parameters derived from them (`00_scope.md` R7, R8;
`10_state.md` R40 to R44). The straps of a running block are part of its State; `Config.straps` are those `State.reset`
samples. -/

namespace Sys2Proof

/-- Which checksum function the block is built with: "function `ARQ-CK32` ..., or any function with the properties of" R131 (R8,
`CK`; R18: "a configuration field"). A function is no plain data, so the field names one. -/
inductive ChecksumAlg where
  /-- The spec's default (R133). -/
  | arqCk32
  /-- Another function; which, nothing says (`Config.customChecksum`). -/
  | custom (n : Nat)
  deriving DecidableEq, Repr

/-- The configuration: the four straps (R40) and the checksum function (R8, R14). A window or a payload of length 0 cannot be built (R42, R43; U10), so the two proofs stand with
the data. -/
structure Straps where
  /-- `VARIANT`: 0 GBN, 1 SR, 2 TCP-like, 3 reserved (R41). -/
  variant : BitVec 2
  /-- `WINDOW_LEN`, written `W` (R42). -/
  windowLen : Nat
  /-- `PAYLOAD_SIZE` in bytes, written `P` (R43). -/
  payloadSize : Nat
  /-- `TIMEOUT_MS`, the duration every `TMR_START` carries (R44). -/
  timeoutMs : Word32
  /-- `CK`, fixed for the built block (R8, R14, R18). -/
  checksum : ChecksumAlg
  windowLen_pos : 0 < windowLen := by decide
  payloadSize_pos : 0 < payloadSize := by decide
  deriving DecidableEq, Repr

/-- `SEQ_LEN = 2·W`, "derived, not independently configurable" (R7). -/
def Straps.seqLen (c : Straps) : Nat := 2 * c.windowLen

/-- `FRAME_BYTES = 12 + P` (R8). -/
def Straps.frameBytes (c : Straps) : Nat := 12 + c.payloadSize

/-- `FRAME_BITS = 8 · FRAME_BYTES` (R8). -/
def Straps.frameBits (c : Straps) : Nat := 8 * c.frameBytes

/-- `EV_BYTES = ACT_BYTES = 1 + FRAME_BYTES` (R8). -/
def Straps.wordBytes (c : Straps) : Nat := 1 + c.frameBytes

/-- `ceil(log2 n)`, for the widths of R8. -/
def ceilLog2 (n : Nat) : Nat := if n ≤ 1 then 0 else (n - 1).log2 + 1

/-- `SEQ_W`, the width of every sequence-number register (R8). -/
def Straps.seqW (c : Straps) : Nat := max 1 (ceilLog2 c.seqLen)

/-- `CNT_W`, the width of the occupancy counter (R8). -/
def Straps.cntW (c : Straps) : Nat := ceilLog2 (c.windowLen + 1)

/-- Every sequence number fits the non-negative half of a 32-bit wire integer. DEDUCED (log entry 12; safe): the spec bounds
`W` nowhere and gives the wire integers 32 bits, so the claims about frames need it. -/
abbrev Straps.FitsWire (c : Straps) : Prop := c.seqLen ≤ 2 ^ 31

namespace Config

/-- The duplicate-ACK threshold, fixed (R7). -/
def dupThresh : Nat := 3

/-- A checksum function other than the default: any function at all, so nothing is known of it. A claim that needs one of the
properties of R131 has it as a hypothesis, `Machine.ChecksumContract`. Free value, log entry 2. -/
opaque customChecksum : Nat → List Byte → Word32

/-- The straps `State.reset` samples. DESIGN CHOICE (log entry 1; unsafe): all are OPEN; these are the values of the
spec's vectors, with the first variant and the default checksum function. Every meaning reads the straps in State, never these. -/
def straps : Straps := { variant := 0#2, windowLen := 4, payloadSize := 4, timeoutMs := 1000#32, checksum := .arqCk32 }

end Config

end Sys2Proof
end

