-- ==== Sys2Proof/Syntax.lean ====
section
/-! DEFINITION. The syntax of what goes into and comes out of the block: frames, the twelve instructions, the five actions,
the twelve dispositions (`30_encoding.md`). -/

namespace Sys2Proof

/-- The wire frame (R85, R86). The payload is `P` bytes; `Frame.wf` says so. -/
structure Frame where
  seqnum : Word32
  acknum : Word32
  checksum : Word32
  payload : List Byte
  deriving DecidableEq, Repr

/-- The two engines of a block (R13). -/
inductive Engine where
  | sender
  | receiver
  deriving DecidableEq, Repr

/-- The four event kinds of R95. -/
inductive EventKind where
  | send
  | ack
  | timeout
  | data
  deriving DecidableEq, Repr

/-- The three variants of R2; the strap value 3 names none. -/
inductive Variant where
  | gbn
  | sr
  | tcp
  deriving DecidableEq, Repr

/-- The instructions: the pairs of variant and event kind of R105, with the operands of R96 to R99. -/
inductive Instr where
  /-- `GBN.SEND`, R166. -/
  | gbnSend (m : List Byte)
  /-- `GBN.ACK`, R168. -/
  | gbnAck (f : Frame)
  /-- `GBN.TIMEOUT`, R170. -/
  | gbnTimeout (k : Word32)
  /-- `GBN.DATA`, R181. -/
  | gbnData (f : Frame)
  /-- `SR.SEND`, R192. -/
  | srSend (m : List Byte)
  /-- `SR.ACK`, R193. -/
  | srAck (f : Frame)
  /-- `SR.TIMEOUT`, R195. -/
  | srTimeout (k : Word32)
  /-- `SR.DATA`, R206. -/
  | srData (f : Frame)
  /-- `TCP.SEND`, R222. -/
  | tcpSend (m : List Byte)
  /-- `TCP.ACK`, R221. -/
  | tcpAck (f : Frame)
  /-- `TCP.TIMEOUT`, R226. -/
  | tcpTimeout (k : Word32)
  /-- `TCP.DATA`, R241. -/
  | tcpData (f : Frame)
  deriving DecidableEq, Repr

/-- The actions of R100. A key is a sequence number; a duration is in milliseconds. -/
inductive Action where
  | txData (f : Frame)
  | txAck (f : Frame)
  | tmrStart (k : Nat) (d : Word32)
  | tmrStop (k : Nat)
  | deliver (m : List Byte)
  deriving DecidableEq, Repr

/-- The dispositions of R106. -/
inductive Disposition where
  | ok
  | windowFull
  | corrupt
  | badField
  | dupAck
  | fastRetx
  | staleAck
  | outOfOrder
  | dupData
  | oldData
  | spuriousTimeout
  | refused
  deriving DecidableEq, Repr

end Sys2Proof
end

