-- ==== Sys2Proof/WellFormed.lean ====
section
/-! DEFINITION. Which instructions a block with given straps can be given: "ports are fixed-width" (U18), so a message and a
payload are `P` bytes long (`30_encoding.md` R90, R96). Every value of the other fields may arrive (R94). -/

namespace Sys2Proof

/-- A frame of `FRAME_BYTES` bytes (R85). -/
abbrev Frame.wf (P : Nat) (f : Frame) : Prop := f.payload.length = P

/-- The variant an instruction belongs to (R105). -/
def Instr.variant : Instr → Variant
  | .gbnSend _ | .gbnAck _ | .gbnTimeout _ | .gbnData _ => .gbn
  | .srSend _ | .srAck _ | .srTimeout _ | .srData _ => .sr
  | .tcpSend _ | .tcpAck _ | .tcpTimeout _ | .tcpData _ => .tcp

/-- The event kind of an instruction (R105). -/
def Instr.kind : Instr → EventKind
  | .gbnSend _ | .srSend _ | .tcpSend _ => .send
  | .gbnAck _ | .srAck _ | .tcpAck _ => .ack
  | .gbnTimeout _ | .srTimeout _ | .tcpTimeout _ => .timeout
  | .gbnData _ | .srData _ | .tcpData _ => .data

/-- The engine an event kind goes to (R95). -/
def EventKind.engine : EventKind → Engine
  | .send | .ack | .timeout => .sender
  | .data => .receiver

/-- An instruction whose operand has the fixed width of the port. -/
def Instr.wf (P : Nat) : Instr → Bool
  | .gbnSend m | .srSend m | .tcpSend m => decide (m.length = P)
  | .gbnAck f | .srAck f | .tcpAck f => decide (f.wf P)
  | .gbnTimeout _ | .srTimeout _ | .tcpTimeout _ => true
  | .gbnData f | .srData f | .tcpData f => decide (f.wf P)

end Sys2Proof
end

