-- ==== Sys2Proof/Decode.lean ====
section
/-! DEFINITION. Byte order, the decoder of event words and their encoder, and the encoder of action words
(`30_encoding.md` R85 to R108, R118). Decoding is total on any bytes and refuses by name. -/

namespace Sys2Proof

/-! ## Byte order (R9, R66): byte 0 is the most significant -/

/-- Four bytes, most significant first, as 32 bits. -/
def be32 (b0 b1 b2 b3 : Byte) : Word32 := b0 ++ b1 ++ b2 ++ b3

/-- 32 bits as four bytes, most significant first. -/
def be32Bytes (v : Word32) : List Byte :=
  [v.extractLsb' 24 8, v.extractLsb' 16 8, v.extractLsb' 8 8, v.extractLsb' 0 8]

/-- `0^n` of R9. -/
def zeroBytes (n : Nat) : List Byte := List.replicate n 0#8

/-- A frame in wire order (R86). -/
def Frame.toBytes (f : Frame) : List Byte :=
  be32Bytes f.seqnum ++ be32Bytes f.acknum ++ be32Bytes f.checksum ++ f.payload

/-- The frame of `12 + P` bytes in wire order (R86); fewer than 12 bytes are no frame. -/
def Frame.ofBytes : List Byte → Option Frame
  | a0 :: a1 :: a2 :: a3 :: b0 :: b1 :: b2 :: b3 :: c0 :: c1 :: c2 :: c3 :: p =>
    some ⟨be32 a0 a1 a2 a3, be32 b0 b1 b2 b3, be32 c0 c1 c2 c3, p⟩
  | _ => none

/-! ## Codes -/

/-- The kind byte of an event (R95). -/
def EventKind.code : EventKind → Byte
  | .send => 0x00#8
  | .ack => 0x01#8
  | .timeout => 0x02#8
  | .data => 0x03#8

/-- The kind a byte names; `0x04` to `0xFF` are reserved (R95). -/
def EventKind.ofCode (b : Byte) : Option EventKind :=
  if b = 0x00#8 then some .send
  else if b = 0x01#8 then some .ack
  else if b = 0x02#8 then some .timeout
  else if b = 0x03#8 then some .data
  else none

/-- The strap value of a variant (R41). -/
def Variant.code : Variant → BitVec 2
  | .gbn => 0#2
  | .sr => 1#2
  | .tcp => 2#2

/-- The variant a strap value names; 3 is reserved (R41). -/
def Variant.ofCode (v : BitVec 2) : Option Variant :=
  if v = 0#2 then some .gbn
  else if v = 1#2 then some .sr
  else if v = 2#2 then some .tcp
  else none

/-! ## Event words -/

/-- Why a word is not an instruction. The first two are the reserved encodings of R108; the third cannot arrive at a port
of fixed width (U18). -/
inductive DecodeRefusal where
  | reservedVariant
  | reservedKind
  | wrongLength
  deriving DecidableEq, Repr

/-- `SEND` under each variant (R105). -/
def Instr.ofSend (m : List Byte) : Variant → Instr
  | .gbn => .gbnSend m
  | .sr => .srSend m
  | .tcp => .tcpSend m

/-- `ACK` under each variant (R105). -/
def Instr.ofAck (f : Frame) : Variant → Instr
  | .gbn => .gbnAck f
  | .sr => .srAck f
  | .tcp => .tcpAck f

/-- `TIMEOUT` under each variant (R105). -/
def Instr.ofTimeout (k : Word32) : Variant → Instr
  | .gbn => .gbnTimeout k
  | .sr => .srTimeout k
  | .tcp => .tcpTimeout k

/-- `DATA` under each variant (R105). -/
def Instr.ofData (f : Frame) : Variant → Instr
  | .gbn => .gbnData f
  | .sr => .srData f
  | .tcp => .tcpData f

/-- Cutting the operand of a kind from the three integers and the payload place of a word's body (R96 to R99). `SEND` ignores
the integers, `TIMEOUT` all but the first (R107). -/
def Instr.ofBody (v : Variant) (k : EventKind) (i0 i1 i2 : Word32) (p : List Byte) : Instr :=
  match k with
  | .send => .ofSend p v
  | .ack => .ofAck ⟨i0, i1, i2, p⟩ v
  | .timeout => .ofTimeout i0 v
  | .data => .ofData ⟨i0, i1, i2, p⟩ v

/-- The decode procedure of R118 on an event word of a block with `P` payload bytes and `VARIANT` strap `v`. -/
def decode (v : BitVec 2) (P : Nat) (w : List Byte) : Except DecodeRefusal Instr :=
  match w with
  | k :: a0 :: a1 :: a2 :: a3 :: b0 :: b1 :: b2 :: b3 :: c0 :: c1 :: c2 :: c3 :: p =>
    if p.length = P then
      match Variant.ofCode v, EventKind.ofCode k with
      | none, _ => .error .reservedVariant
      | some _, none => .error .reservedKind
      | some vr, some kd => .ok (.ofBody vr kd (be32 a0 a1 a2 a3) (be32 b0 b1 b2 b3) (be32 c0 c1 c2 c3) p)
    else .error .wrongLength
  | _ => .error .wrongLength

/-- The body of an instruction's word, with zeros where bytes are ignored (R96 to R99, R107). -/
def Instr.body (P : Nat) : Instr → List Byte
  | .gbnSend m | .srSend m | .tcpSend m => zeroBytes 12 ++ m
  | .gbnAck f | .srAck f | .tcpAck f => f.toBytes
  | .gbnTimeout k | .srTimeout k | .tcpTimeout k => be32Bytes k ++ zeroBytes (8 + P)
  | .gbnData f | .srData f | .tcpData f => f.toBytes

/-- The event word of an instruction: its kind byte, then its body (R95). -/
def encode (P : Nat) (i : Instr) : List Byte := i.kind.code :: i.body P

/-- The word the arbiter gives the sender for an expiry of `k`: zeros after the key (R98). -/
def timeoutWord (P : Nat) (k : Word32) : List Byte := EventKind.timeout.code :: (be32Bytes k ++ zeroBytes (8 + P))

/-! ## Action words -/

/-- The kind byte of an action (R100). -/
def Action.code : Action → Byte
  | .txData _ => 0x00#8
  | .txAck _ => 0x01#8
  | .tmrStart _ _ => 0x02#8
  | .tmrStop _ => 0x03#8
  | .deliver _ => 0x04#8

/-- The action word of R100 in a block with `P` payload bytes; unused bytes are zero (R107). A key is written as its low 32
bits: R100 gives it 4 bytes, and the spec bounds `W` nowhere, so it does not say what a block with `SEQ_LEN` above 2^32 writes for
a key of 2^32 or more. DESIGN CHOICE (log entry 23; unsafe for such a block; for every key below 2^32 the word is exact). -/
def Action.encode (P : Nat) (a : Action) : List Byte :=
  a.code ::
    match a with
    | .txData f | .txAck f => f.toBytes
    | .tmrStart k d => be32Bytes (BitVec.ofNat 32 k) ++ be32Bytes d ++ zeroBytes (4 + P)
    | .tmrStop k => be32Bytes (BitVec.ofNat 32 k) ++ zeroBytes (8 + P)
    | .deliver m => zeroBytes 12 ++ m

/-- The engine whose action port an action leaves from (R100, R110). -/
def Action.engine : Action → Engine
  | .txData _ | .tmrStart _ _ | .tmrStop _ => .sender
  | .txAck _ | .deliver _ => .receiver

/-! ## The opcode table's decode key (R105): `VARIANT` in bits 9:8, the kind byte in bits 7:0 -/

/-- The `VARIANT` bits of a table key. -/
def keyVariant (key : Nat) : BitVec 2 := BitVec.ofNat 2 (key / 256)

/-- The event word of a table key: its kind byte and a body of zeros. -/
def keyWord (P key : Nat) : List Byte := BitVec.ofNat 8 key :: zeroBytes (12 + P)

/-- The instruction the decoder reads from a table key. A number above 10 bits is no key. -/
def decodeTableWord (nbits w : Nat) : Option Instr :=
  let key := w % 2 ^ nbits
  if key < 1024 then (decode (keyVariant key) Config.straps.payloadSize (keyWord Config.straps.payloadSize key)).toOption
  else none

end Sys2Proof
end

