-- ==== Sys2Proof/Machine/Checksum.lean ====
section
/-! DEFINITION. The checksum codec and the frame builder (`41_checksum_frame.md` R130 to R134). The algorithm is a
parameter of the block: the spec's default, `ARQ-CK32`, or any other function (log entry 2). -/

namespace Sys2Proof.Machine

/-- One byte into the two 16-bit accumulators `(a, b)`; both wrap modulo `2^16` (R133). -/
def ckStep (acc : BitVec 16 × BitVec 16) (x : Byte) : BitVec 16 × BitVec 16 :=
  let a := acc.1 + x.setWidth 16
  (a, acc.2 + a)

/-- `ARQ-CK32`: seed `a = 1`, `b = 0`, bytes in order, result `b ++ a` (R133). -/
def arqCk32 (bytes : List Byte) : Word32 :=
  let r := bytes.foldl ckStep (1#16, 0#16)
  r.2 ++ r.1

/-- `cin(f)`: the frame in wire order with the checksum field replaced by zeros (R132). -/
def cin (f : Frame) : List Byte := be32Bytes f.seqnum ++ be32Bytes f.acknum ++ zeroBytes 4 ++ f.payload

/-- `CK` of a built block (R8): a total function of the byte string alone (`CK-FUN`). -/
def checksumOf : ChecksumAlg → List Byte → Word32
  | .arqCk32 => arqCk32
  | .custom n => Config.customChecksum n

/-- `ck(f) = CK(cin(f))` (R134). -/
def ck (c : Straps) (f : Frame) : Word32 := checksumOf c.checksum (cin f)

/-- `CK-BYTE`: frames that differ in exactly one payload byte have different checksums (R131). -/
def CkByte (c : Straps) : Prop :=
  ∀ (f : Frame) (i : Nat) (y : Byte), f.wf c.payloadSize → i < f.payload.length → f.payload[i]? ≠ some y →
    ck c { f with payload := f.payload.set i y } ≠ ck c f

/-- `CK-ORDER`: not a symmetric function of the input bytes (R131). -/
def CkOrder (c : Straps) : Prop :=
  ∃ f g : Frame, f.wf c.payloadSize ∧ g.wf c.payloadSize ∧ (cin f).Perm (cin g) ∧ ck c f ≠ ck c g

/-- The properties of R131 that are not there by construction. `CK-FUN` and `CK-EXCL` are: `ck` is a function of `cin(f)`, and
`cin(f)` has zeros for the checksum field. -/
structure ChecksumContract (c : Straps) : Prop where
  byte : CkByte c
  order : CkOrder c

/-- `mk(s, a, m)`: the frame with these fields and its own checksum (R134). -/
def mk (c : Straps) (s a : Word32) (m : List Byte) : Frame :=
  { seqnum := s, acknum := a, checksum := ck c ⟨s, a, 0#32, m⟩, payload := m }

/-- `mk_data(s, m) = mk(s, -1, m)` (R91, R134). -/
def mkData (c : Straps) (s : Nat) (m : List Byte) : Frame := mk c (BitVec.ofNat 32 s) 0xFFFFFFFF#32 m

/-- `mk_ack(a) = mk(0, a, 0^P)` (R92, R134). -/
def mkAck (c : Straps) (a : Nat) : Frame := mk c 0#32 (BitVec.ofNat 32 a) (zeroBytes c.payloadSize)

end Sys2Proof.Machine
end

