-- ==== Sys2Proof/Machine/Operands.lean ====
section
/-! DEFINITION. The frame validator (`41_checksum_frame.md` R135, R136, R140): what an engine reads from an inbound frame. -/

namespace Sys2Proof.Machine

/-- `valid(f) = (f.checksum = ck(f))`, 32 raw bits (R135). -/
def valid (c : Straps) (f : Frame) : Bool := decide (f.checksum = ck c f)

/-- `0 <= s32(v) < SEQ_LEN` (R136). -/
def inRange (c : Straps) (v : Word32) : Bool := decide (0 ≤ v.toInt ∧ v.toInt < (c.seqLen : Int))

/-- `data_ok(f)` (R136). -/
def dataOk (c : Straps) (f : Frame) : Bool := valid c f && inRange c f.seqnum

/-- `ack_ok(f)` (R136). -/
def ackOk (c : Straps) (f : Frame) : Bool := valid c f && inRange c f.acknum

/-- The validator on one field: the checksum first, the range second, then the decoded number (R136, R140). -/
def readField (c : Straps) (f : Frame) (v : Word32) : Except Disposition Nat :=
  if valid c f then if inRange c v then .ok v.toInt.toNat else .error .badField else .error .corrupt

/-- The acknowledgment number of an `ACK` frame. -/
def readAcknum (c : Straps) (f : Frame) : Except Disposition Nat := readField c f f.acknum

/-- The sequence number of a `DATA` frame. -/
def readSeqnum (c : Straps) (f : Frame) : Except Disposition Nat := readField c f f.seqnum

end Sys2Proof.Machine
end

