-- ==== Sys2Proof/Machine/SeqArith.lean ====
section
/-! DEFINITION. The sequence-number arithmetic unit (`40_seq_arith.md`). `L` is `SEQ_LEN`; every result is reduced modulo
`L` (R120, R127). -/

namespace Sys2Proof.Machine

/-- `seq_inc(s) = (s + 1) mod SEQ_LEN` (R121). -/
def seqInc (L s : Nat) : Nat := (s + 1) % L

/-- `seq_dist(a, b) = (a - b) mod SEQ_LEN` with the floored `mod` of R10 (R122): the circular distance from `b` forward to
`a`. -/
def seqDist (L a b : Nat) : Nat := (((a : Int) - (b : Int)) % (L : Int)).toNat

/-- `seq_add(s, n) = (s + n) mod SEQ_LEN` (R123). -/
def seqAdd (L s n : Nat) : Nat := (s + n) % L

/-- `in_window(s, b, len) = (seq_dist(s, b) < len)` (R124). -/
def inWindow (L s b len : Nat) : Bool := decide (seqDist L s b < len)

/-- `seq_prev(b) = seq_dist(b, 1)` (R125). -/
def seqPrev (L b : Nat) : Nat := seqDist L b 1

end Sys2Proof.Machine
end

