-- ==== Sys2Proof/Machine/State.lean ====
section
/-! DEFINITION. The state of a block as plain data (`10_state.md`), the reasons a step can stop, and the state after reset.
The window stores are the abstract lists every instruction rule is written against (R23, R28, `20_memory.md` R60; log entry 9);
their ring refinement is `Machine/Ring.lean`. -/

namespace Sys2Proof.Machine

/-- A sender window entry: the frame as transmitted and its mark (R23, R24). -/
structure Entry where
  pkt : Frame
  acked : Bool
  deriving DecidableEq, Repr

/-- The sender's registers and store (R20 to R25). `S.count` is the length of `win` (R22; log entry 10). -/
structure Sender where
  /-- `S.nextseqnum` (R20). -/
  nextseqnum : Nat
  /-- `S.base` (R21). -/
  base : Nat
  /-- `S.win`, ordered by offset from the base (R23, R24). -/
  win : List Entry
  /-- `S.dup` (R25). -/
  dup : Nat
  deriving DecidableEq, Repr

/-- The receiver's registers and store (R26 to R28). -/
structure Receiver where
  /-- `R.base` (R26). -/
  base : Nat
  /-- `R.last_ack` (R27). -/
  lastAck : Frame
  /-- `R.slot`, ordered by offset from the base: a received frame, or `none` for a blank (R28). -/
  slots : List (Option Frame)
  deriving DecidableEq, Repr

/-- What the arbiter holds for one key: the running bit and the remaining time in milliseconds (R29, R262). -/
structure TimerCell where
  run : Bool
  remaining : Word32
  deriving DecidableEq, Repr

/-- What one step put on the ports: the engine that served, its actions in order, its disposition (`00_scope.md` R12,
`30_encoding.md` R110). No rule reads it (log entry 4). -/
structure Report where
  engine : Option Engine
  actions : List Action
  disp : Option Disposition
  deriving DecidableEq, Repr

/-- One move of the environment or of time. -/
inductive Stimulus where
  /-- A word on an event port (`30_encoding.md` R111). -/
  | event (w : List Byte)
  /-- The expiry of timer `k` (`60_exceptions.md` R266), a key of 4 bytes as R98 has it. Timers with larger keys, in a block with
  `SEQ_LEN` above 2^32, have none: DESIGN CHOICE (log entry 23; unsafe for such a block). -/
  | expire (k : Word32)
  /-- The time base of the arbiter (`30_encoding.md` R114). -/
  | tick
  /-- Reset, with the strap inputs it samples (`70_reset_and_hazards.md` R280; log entry 13). -/
  | rst (variant : BitVec 2) (timeoutMs : Word32)
  deriving DecidableEq, Repr

/-- The block. -/
structure State where
  /-- The straps as sampled at reset (R40). -/
  straps : Straps
  snd : Sender
  rcv : Receiver
  /-- The timer arbiter, one cell for each key `0 .. SEQ_LEN-1` (R29). -/
  ta : List TimerCell
  /-- The environment's moves not yet served, next first (log entry 3). -/
  inputs : List Stimulus
  /-- What the last step put on the ports (log entry 4). -/
  out : Report
  deriving DecidableEq, Repr

/-- "The block has no fault, no trap and no fatal state" (`00_scope.md` R17): no constructor, so no step raises one. Safe. -/
inductive Fault where
  deriving DecidableEq, Repr

/-- Why a step gives no next state. -/
inductive Refusal where
  /-- Raised by an arm of `exec` whose instruction has no meaning yet; no arm does. Safe. -/
  | notModelled (mnemonic : String)
  /-- Raised by `serve` for an event word that is not `EV_BYTES` long, which no port of fixed width can carry (U18; log entry
  6). Safe: the machine stops. -/
  | wordLength
  /-- Raised by `step` for an expiry of a timer that is not running, which the arbiter cannot produce: `expire(k)`
  "requires TA.run[k] = 1" (R266; log entry 7). Safe: the machine stops. -/
  | timerNotRunning (k : Word32)
  deriving DecidableEq, Repr

/-- The outcome of a step of this machine. -/
abbrev Result := Host.Outcome State Fault Refusal

/-- Nothing on any port. -/
def Report.silent : Report := ⟨none, [], none⟩

/-- The sender after reset (R55). -/
def Sender.init : Sender := { nextseqnum := 0, base := 0, win := [], dup := 0 }

/-- The receiver after reset: base 0, the cached ACK `mk_ack(SEQ_LEN-1)`, `W` blank slots (R56). -/
def Receiver.init (c : Straps) : Receiver :=
  { base := 0, lastAck := mkAck c (c.seqLen - 1), slots := List.replicate c.windowLen none }

/-- A stopped timer with the remaining time the model names: R57 gives none (log entry 8, DESIGN CHOICE, unsafe). -/
def TimerCell.init : TimerCell := ⟨false, 0#32⟩

/-- The block after a reset that samples the straps `c` (R55 to R58, R280). -/
def State.init (c : Straps) : State :=
  { straps := c, snd := Sender.init, rcv := Receiver.init c, ta := List.replicate c.seqLen TimerCell.init, inputs := [],
    out := Report.silent }

/-- The block after reset with the straps of `Config` and no event waiting (log entries 1 and 3). -/
def State.reset : State := State.init Config.straps

end Sys2Proof.Machine
end

