-- ==== Sys2Proof/Machine/Timer.lean ====
section
/-! DEFINITION. The timer arbiter (`60_exceptions.md` R262 to R266). A key past the last cell names no timer. -/

namespace Sys2Proof.Machine

/-- `TA.run[k]` (R29). -/
def running (k : Nat) (ta : List TimerCell) : Bool := (ta[k]?.map (·.run)).getD false

/-- `TMR_START(k, d)`: running, with `d` milliseconds remaining, whether or not it was running (R263). -/
def timerStart (k : Nat) (d : Word32) (ta : List TimerCell) : List TimerCell := ta.set k ⟨true, d⟩

/-- `TMR_STOP(k)`: not running (R264). The remaining time keeps its value (log entry 8). -/
def timerStop (k : Nat) (ta : List TimerCell) : List TimerCell := ta.modify k fun c => { c with run := false }

/-- The arbiter's half of an expiry: the running bit is cleared (R266). -/
def timerExpire (k : Nat) (ta : List TimerCell) : List TimerCell := ta.modify k fun c => { c with run := false }

/-- "The remaining time of a running timer counts down once per `tick`" and stays at zero (R266; log entry 8). -/
def cellTick (c : TimerCell) : TimerCell :=
  if c.run && decide (c.remaining ≠ 0#32) then { c with remaining := c.remaining - 1#32 } else c

/-- One `tick` at the arbiter. -/
def timerTick (ta : List TimerCell) : List TimerCell := ta.map cellTick

/-- An expiry is pending "when it reaches zero" (R266): a stop, a start of a duration above zero or an expiry drops it (R263,
R264). DESIGN CHOICE (log entry 19; safe): a start of duration 0 is pending at once, where the spec does not say whether
that is so or only after the next tick. No meaning reads this. -/
def TimerCell.pending (c : TimerCell) : Bool := c.run && decide (c.remaining = 0#32)

/-- One action at the arbiter; only the timer actions are for it (R103). -/
def applyTimerAction (ta : List TimerCell) : Action → List TimerCell
  | .tmrStart k d => timerStart k d ta
  | .tmrStop k => timerStop k ta
  | .txData _ | .txAck _ | .deliver _ => ta

/-- The timer actions of an event, in order (`20_memory.md` R75, R76; R266). -/
def applyTimerActions (acts : List Action) (ta : List TimerCell) : List TimerCell := acts.foldl applyTimerAction ta

end Sys2Proof.Machine
end

