-- ==== Sys2Proof/Machine/Window.lean ====
section
/-! DEFINITION. The sliding window buffer: the sender window primitives `sw_*` and the receiver window primitives `rw_*` on
the abstract state (`42_window_buffer.md`). `L` is `SEQ_LEN`, `W` is `WINDOW_LEN`.

DESIGN CHOICE (log entry 18; safe): the primitives are total. The spec gives each a precondition, says that no rule calls one
with a false one, and advises a model to make such a call unrepresentable or to refuse it (U15). Here it gives a value: a push
past `W` appends, a pop past the end empties the list and moves the base, a mark past the end marks nothing, a store
overwrites, a shift drops a blank. No meaning makes such a call. -/

namespace Sys2Proof.Machine

/-! ## Sender window -/

/-- `S.count` (R22). -/
def Sender.count (r : Sender) : Nat := r.win.length

/-- `sw_empty()` (R146). -/
def swEmpty (r : Sender) : Bool := decide (r.count = 0)

/-- `sw_full()` (R146). -/
def swFull (W : Nat) (r : Sender) : Bool := decide (r.count = W)

/-- `sw_push(f)`: append `(f, acked = 0)`; `S.nextseqnum` is the caller's (R147). Total, log entry 18. -/
def swPush (f : Frame) (r : Sender) : Sender := { r with win := r.win ++ [⟨f, false⟩] }

/-- `sw_get(i)`, `none` where there is no entry (R148). -/
def swGet (i : Nat) (r : Sender) : Option Entry := r.win[i]?

/-- `sw_index_of(s)` (R149). -/
def swIndexOf (L s : Nat) (r : Sender) : Nat := seqDist L s r.base

/-- `sw_pop_front(n)`: drop the first `n` entries and move the base (R150). Total, log entry 18. -/
def swPopFront (L n : Nat) (r : Sender) : Sender := { r with base := seqAdd L r.base n, win := r.win.drop n }

/-- `sw_set_acked(i)` (R151). Total, log entry 18. -/
def swSetAcked (i : Nat) (r : Sender) : Sender := { r with win := r.win.modify i fun e => { e with acked := true } }

/-- The loop of `sw_slide_acked()` on base and entries: pop one while the front is acknowledged (R152). -/
def slideLoop (L : Nat) : Nat → List Entry → Nat × List Entry
  | b, [] => (b, [])
  | b, e :: es => if e.acked then slideLoop L (seqInc L b) es else (b, e :: es)

/-- `sw_slide_acked()` (R152). -/
def swSlideAcked (L : Nat) (r : Sender) : Sender :=
  { r with base := (slideLoop L r.base r.win).1, win := (slideLoop L r.base r.win).2 }

/-! ## Receiver window -/

/-- `rw_index_of(s)` (R155). -/
def rwIndexOf (L s : Nat) (r : Receiver) : Nat := seqDist L s r.base

/-- The frame buffered at offset `i`, `none` for a blank slot. -/
def rwGet (i : Nat) (r : Receiver) : Option Frame := r.slots[i]?.join

/-- `rw_received(i)` (R156). -/
def rwReceived (i : Nat) (r : Receiver) : Bool := (rwGet i r).isSome

/-- `rw_store(i, f)` (R157). Total, log entry 18. -/
def rwStore (i : Nat) (f : Frame) (r : Receiver) : Receiver := { r with slots := r.slots.set i (some f) }

/-- `rw_shift()`: the front slot leaves, a blank is appended, the base advances (R158). Total, log entry 18. -/
def rwShift (L : Nat) (r : Receiver) : Receiver := { r with base := seqInc L r.base, slots := r.slots.drop 1 ++ [none] }

/-- The delivery loop of `SR.DATA`: while the front slot is received, deliver its payload and shift (R206, R209). The bound is
the `W` iterations it can run at most (R159). -/
def deliverLoop (L : Nat) : Nat → Receiver → List Action × Receiver
  | 0, r => ([], r)
  | n + 1, r =>
    match rwGet 0 r with
    | none => ([], r)
    | some f => (.deliver f.payload :: (deliverLoop L n (rwShift L r)).1, (deliverLoop L n (rwShift L r)).2)

end Sys2Proof.Machine
end

