-- ==== Sys2Proof/Machine/Ops.lean ====
section
/-! DEFINITION. The named updates of State, the end of an event (`00_scope.md` R11, `60_exceptions.md` R250), and the operations
two instructions share. The block takes no exception and returns from none (R251, R252): `done` and `raise` are all that
ends an event. -/

namespace Sys2Proof.Machine

/-! ## Updates -/

def State.withStraps (c : Straps) (s : State) : State := { s with straps := c }
def State.withSnd (r : Sender) (s : State) : State := { s with snd := r }
def State.withRcv (r : Receiver) (s : State) : State := { s with rcv := r }
def State.withTa (t : List TimerCell) (s : State) : State := { s with ta := t }
def State.withInputs (l : List Stimulus) (s : State) : State := { s with inputs := l }
def State.withOut (r : Report) (s : State) : State := { s with out := r }

/-! ## The end of an event -/

/-- `done D` with the actions emitted: the timer actions reach the arbiter in order (R103, `20_memory.md` R76), and the actions
and the disposition stand on the engine's ports. -/
def done (e : Engine) (d : Disposition) (acts : List Action) (s : State) : Result :=
  .next ((s.withTa (applyTimerActions acts s.ta)).withOut ⟨some e, acts, some d⟩)

/-- `raise D`: `done D` with no state write and no action before it (R11, R250). -/
def raise (e : Engine) (d : Disposition) (s : State) : Result := done e d [] s

/-- The engine a word goes to, by its kind byte; R95 gives a reserved kind none. -/
def wordEngine (w : List Byte) : Option Engine := (w.head?.bind EventKind.ofCode).map EventKind.engine

/-- What a reserved encoding does: "no state change, no action, disposition `REFUSED`" (`30_encoding.md` R108; log entry 5), given on
the disposition port of the engine of its kind byte (R95, R110). A reserved kind byte has no engine, so its refusal is
reported with none (DESIGN CHOICE, log entry 14; safe). -/
def refuseWord (w : List Byte) (s : State) : State := s.withOut ⟨wordEngine w, [], some .refused⟩

/-! ## Operations two variants share -/

/-- The `SEND` of the FIFO senders, GBN (R166) and TCP-like (R222, "identical to GBN"): transmit, then start the timer if the
new packet is the window's oldest. -/
def sendFifo (m : List Byte) (s : State) : Result :=
  if swFull s.straps.windowLen s.snd then raise .sender .windowFull s
  else
    let f := mkData s.straps s.snd.nextseqnum m
    let start := if s.snd.base = s.snd.nextseqnum then [Action.tmrStart s.snd.base s.straps.timeoutMs] else []
    done .sender .ok (.txData f :: start)
      (s.withSnd { swPush f s.snd with nextseqnum := seqInc s.straps.seqLen s.snd.nextseqnum })

/-- `if S.count > 0: emit TMR_START(S.base, T)`, the restart after a cumulative slide (R168, R221). -/
def restartTimer (T : Word32) (r : Sender) : List Action := if swEmpty r then [] else [.tmrStart r.base T]

/-- The `DATA` of the in-order receivers, GBN (R181) and TCP-like (R241, "word for word"): accept exactly the expected number;
on anything else resend the cached ACK. -/
def receiveInOrder (f : Frame) (s : State) : Result :=
  match readSeqnum s.straps f with
  | .error d => done .receiver d [.txAck s.rcv.lastAck] s
  | .ok q =>
    if q = s.rcv.base then
      let a := mkAck s.straps q
      done .receiver .ok [.deliver f.payload, .txAck a]
        (s.withRcv { s.rcv with lastAck := a, base := seqInc s.straps.seqLen s.rcv.base })
    else done .receiver .outOfOrder [.txAck s.rcv.lastAck] s

end Sys2Proof.Machine
end

