-- ==== Sys2Proof/Machine/GbnReceiver.lean ====
section
/-! DEFINITION. `GBN.DATA` (`44_gbn_receiver.md`). -/

namespace Sys2Proof.Machine

/-- `GBN.DATA` (R181). -/
def execGbnData (f : Frame) (s : State) : Result := receiveInOrder f s

end Sys2Proof.Machine
end

