-- ==== Sys2Proof/Machine/GbnSender.lean ====
section
/-! DEFINITION. `GBN.SEND`, `GBN.ACK`, `GBN.TIMEOUT` (`43_gbn_sender.md`). -/

namespace Sys2Proof.Machine

/-- `GBN.SEND` (R166). -/
def execGbnSend (m : List Byte) (s : State) : Result := sendFifo m s

/-- `GBN.ACK` (R168): stop the timer of the old base, slide over the `n` entries the ACK covers if the window holds as many,
restart the timer of the new base if the window is not empty. -/
def execGbnAck (f : Frame) (s : State) : Result :=
  match readAcknum s.straps f with
  | .error d => raise .sender d s
  | .ok a =>
    let L := s.straps.seqLen
    let n := seqDist L (seqInc L a) s.snd.base
    let r := if n ≤ s.snd.count then swPopFront L n s.snd else s.snd
    let d := if n ≤ s.snd.count then (if n = 0 then Disposition.dupAck else .ok) else .staleAck
    done .sender d (.tmrStop s.snd.base :: restartTimer s.straps.timeoutMs r) (s.withSnd r)

/-- `GBN.TIMEOUT` (R170): restart the timer and retransmit the whole window in order. -/
def execGbnTimeout (k : Word32) (s : State) : Result :=
  if swEmpty s.snd || decide (k.toNat ≠ s.snd.base) then raise .sender .spuriousTimeout s
  else
    done .sender .ok
      (.tmrStop k.toNat :: .tmrStart k.toNat s.straps.timeoutMs :: s.snd.win.map fun e => .txData e.pkt) s

end Sys2Proof.Machine
end

