-- ==== Sys2Proof/Machine/SrReceiver.lean ====
section
/-! DEFINITION. `SR.DATA` (`46_sr_receiver.md`). -/

namespace Sys2Proof.Machine

/-- `SR.DATA` (R206): acknowledge every valid packet by its own number; buffer it if its slot is in the window and blank, and
then deliver the received prefix. -/
def execSrData (f : Frame) (s : State) : Result :=
  match readSeqnum s.straps f with
  | .error d => raise .receiver d s
  | .ok q =>
    let W := s.straps.windowLen
    let idx := rwIndexOf s.straps.seqLen q s.rcv
    let a := mkAck s.straps q
    if idx < W && !rwReceived idx s.rcv then
      let r := deliverLoop s.straps.seqLen W { rwStore idx f s.rcv with lastAck := a }
      done .receiver .ok (.txAck a :: r.1) (s.withRcv r.2)
    else
      done .receiver (if idx < W then .dupData else .oldData) [.txAck a] (s.withRcv { s.rcv with lastAck := a })

end Sys2Proof.Machine
end

