-- ==== Sys2Proof/Machine/SrSender.lean ====
section
/-! DEFINITION. `SR.SEND`, `SR.ACK`, `SR.TIMEOUT` (`45_sr_sender.md`). -/

namespace Sys2Proof.Machine

/-- `SR.SEND` (R192): start the packet's own timer, then transmit. -/
def execSrSend (m : List Byte) (s : State) : Result :=
  if swFull s.straps.windowLen s.snd then raise .sender .windowFull s
  else
    let f := mkData s.straps s.snd.nextseqnum m
    done .sender .ok [.tmrStart s.snd.nextseqnum s.straps.timeoutMs, .txData f]
      (s.withSnd { swPush f s.snd with nextseqnum := seqInc s.straps.seqLen s.snd.nextseqnum })

/-- `SR.ACK` (R193): mark the entry, stop its timer, slide over the acknowledged prefix. -/
def execSrAck (f : Frame) (s : State) : Result :=
  match readAcknum s.straps f with
  | .error d => raise .sender d s
  | .ok a =>
    match swGet (swIndexOf s.straps.seqLen a s.snd) s.snd with
    | none => raise .sender .staleAck s
    | some e =>
      if e.acked then raise .sender .dupAck s
      else
        done .sender .ok [.tmrStop a]
          (s.withSnd (swSlideAcked s.straps.seqLen (swSetAcked (swIndexOf s.straps.seqLen a s.snd) s.snd)))

/-- `SR.TIMEOUT` (R195): restart the timer of an unacknowledged entry and retransmit that entry. -/
def execSrTimeout (k : Word32) (s : State) : Result :=
  if s.straps.seqLen ≤ k.toNat then raise .sender .spuriousTimeout s
  else
    match swGet (swIndexOf s.straps.seqLen k.toNat s.snd) s.snd with
    | none => raise .sender .spuriousTimeout s
    | some e =>
      if e.acked then raise .sender .spuriousTimeout s
      else done .sender .ok [.tmrStart k.toNat s.straps.timeoutMs, .txData e.pkt] s

end Sys2Proof.Machine
end

