-- ==== Sys2Proof/Machine/TcpReceiver.lean ====
section
/-! DEFINITION. `TCP.DATA` (`48_tcp_receiver.md`). -/

namespace Sys2Proof.Machine

/-- `TCP.DATA` (R241). -/
def execTcpData (f : Frame) (s : State) : Result := receiveInOrder f s

end Sys2Proof.Machine
end

