-- ==== Sys2Proof/Machine/TcpSender.lean ====
section
/-! DEFINITION. `TCP.SEND`, `TCP.ACK`, `TCP.TIMEOUT` (`47_tcp_sender.md`). -/

namespace Sys2Proof.Machine

/-- `TCP.SEND` (R222). -/
def execTcpSend (m : List Byte) (s : State) : Result := sendFifo m s

/-- The duplicate branch of `TCP.ACK` (R224): count, and at the threshold reset the count and retransmit the head of the
window, if there is one. -/
def countDuplicate (s : State) : Result :=
  if s.snd.dup + 1 = Config.dupThresh then
    match swGet 0 s.snd with
    | some e => done .sender .fastRetx [.txData e.pkt] (s.withSnd { s.snd with dup := 0 })
    | none => done .sender .dupAck [] (s.withSnd { s.snd with dup := 0 })
  else done .sender .dupAck [] (s.withSnd { s.snd with dup := s.snd.dup + 1 })

/-- `TCP.ACK` (R221): new progress slides cumulatively and restarts the timer (R223), an ACK of `base - 1` counts as a duplicate
(R224), anything else is stale (R225). -/
def execTcpAck (f : Frame) (s : State) : Result :=
  match readAcknum s.straps f with
  | .error d => raise .sender d s
  | .ok a =>
    let L := s.straps.seqLen
    let idx := seqDist L a s.snd.base
    if idx < s.snd.count then
      let r := { swPopFront L (idx + 1) s.snd with dup := 0 }
      done .sender .ok (.tmrStop s.snd.base :: restartTimer s.straps.timeoutMs r) (s.withSnd r)
    else if idx = L - 1 then countDuplicate s
    else raise .sender .staleAck s

/-- `TCP.TIMEOUT` (R226): restart the timer and retransmit the head of the window. -/
def execTcpTimeout (k : Word32) (s : State) : Result :=
  match swGet 0 s.snd with
  | none => raise .sender .spuriousTimeout s
  | some e =>
    if k.toNat ≠ s.snd.base then raise .sender .spuriousTimeout s
    else done .sender .ok [.tmrStart k.toNat s.straps.timeoutMs, .txData e.pkt] s

end Sys2Proof.Machine
end

