-- ==== Sys2Proof/Machine/Dispatch.lean ====
section
/-! DEFINITION. The 12-way dispatch of `30_encoding.md` R105. -/

namespace Sys2Proof.Machine

def exec (i : Instr) (s : State) : Host.Outcome State Fault Refusal :=
  match i with
  | .gbnSend m => Sys2Proof.Machine.execGbnSend m s
  | .gbnAck f => Sys2Proof.Machine.execGbnAck f s
  | .gbnTimeout k => Sys2Proof.Machine.execGbnTimeout k s
  | .gbnData f => Sys2Proof.Machine.execGbnData f s
  | .srSend m => Sys2Proof.Machine.execSrSend m s
  | .srAck f => Sys2Proof.Machine.execSrAck f s
  | .srTimeout k => Sys2Proof.Machine.execSrTimeout k s
  | .srData f => Sys2Proof.Machine.execSrData f s
  | .tcpSend m => Sys2Proof.Machine.execTcpSend m s
  | .tcpAck f => Sys2Proof.Machine.execTcpAck f s
  | .tcpTimeout k => Sys2Proof.Machine.execTcpTimeout k s
  | .tcpData f => Sys2Proof.Machine.execTcpData f s

end Sys2Proof.Machine
end

