-- ==== Sys2Proof/Machine/Serve.lean ====
section
/-! DEFINITION. What a step does with each move of the environment: serve an event word, expire a timer, tick, reset. -/

namespace Sys2Proof.Machine

/-- Serve one event word: decode it under the `VARIANT` strap and run the instruction (`30_encoding.md` R118); a reserved
encoding is refused by the block (R108). A word of another length cannot be on a port (U18). -/
def serve (w : List Byte) (s : State) : Result :=
  match decode s.straps.variant s.straps.payloadSize w with
  | .ok i => exec i s
  | .error .reservedVariant => .next (refuseWord w s)
  | .error .reservedKind => .next (refuseWord w s)
  | .error .wrongLength => .refused .wordLength

/-- `expire(k)` of `60_exceptions.md` R266: `TA.run[k]` is cleared and `TIMEOUT(k)` is the sender's next event, in one step. It
"requires TA.run[k] = 1". -/
def expire (k : Word32) (s : State) : Result :=
  if running k.toNat s.ta then serve (timeoutWord s.straps.payloadSize k) (s.withTa (timerExpire k.toNat s.ta))
  else .refused (.timerNotRunning k)

/-- One `tick` (R266): only remaining times change, and nothing is on the ports. -/
def tick (s : State) : State := (s.withTa (timerTick s.ta)).withOut Report.silent

/-- An idle step: nothing changes and nothing is on the ports (log entry 17). -/
def idle (s : State) : State := s.withOut Report.silent

/-- Reset (`70_reset_and_hazards.md` R280): the reset state under the straps sampled now, nothing emitted. `WINDOW_LEN`,
`PAYLOAD_SIZE` and the checksum function are constants of the built block (`10_state.md` R42, R43; log entry 13). Moves of the environment that have not come
yet still come: "frames already handed to the channel stay in the channel" (R281). -/
def resetBlock (v : BitVec 2) (t : Word32) (s : State) : State :=
  (State.init { s.straps with variant := v, timeoutMs := t }).withInputs s.inputs

/-- The environment presents word `w` next, to a block with `VARIANT` strap `v`. -/
def presentWord (v : BitVec 2) (w : List Byte) (s : State) : State :=
  (s.withStraps { s.straps with variant := v }).withInputs (.event w :: s.inputs)

end Sys2Proof.Machine
end

