-- ==== Sys2Proof/Machine/Step.lean ====
section
/-! DEFINITION. The step: the block serves the next move of its environment (`00_scope.md` R12, R13, `60_exceptions.md` R266). -/

namespace Sys2Proof.Machine

/-- One step. With no move waiting the block is idle (R274). -/
def step (s : State) : Host.Outcome State Fault Refusal :=
  match s.inputs with
  | [] => .next (idle s)
  | .event w :: rest => serve w (s.withInputs rest)
  | .expire k :: rest => expire k (s.withInputs rest)
  | .tick :: rest => .next (tick (s.withInputs rest))
  | .rst v t :: rest => .next (resetBlock v t (s.withInputs rest))

/-- `s` with the `VARIANT` strap of the table key `w` and its event word (zero body) as the environment's next move: there is
no program in the machine, the environment presents each event (log entry 3). -/
def State.withFetchWord (s : State) (nbits w : Nat) : State :=
  presentWord (keyVariant (w % 2 ^ nbits)) (keyWord s.straps.payloadSize (w % 2 ^ nbits)) s

end Sys2Proof.Machine
end

