-- ==== Sys2Proof/Machine/Ring.lean ====
section
/-! DEFINITION. The physical view of the block. The window stores `SW` and `RW` as rings of `W` words indexed by sequence
number, their operations, and the abstraction function to the lists of State (`20_memory.md` R61 to R64, `42_window_buffer.md`
R147 to R158 "Physical"); the registers at their widths (`00_scope.md` R8) and the sequence arithmetic unit on them
(`40_seq_arith.md`). State holds the abstract view (log entries 9 and 11); this file is its refinement (`10_state.md` R38). -/

namespace Sys2Proof.Machine

/-- One word of `SW` or `RW`: the `FRAME_BITS` frame bits and the one-bit field, `acked` or `received` (R61). -/
structure StoreWord where
  pkt : Frame
  mark : Bool
  deriving DecidableEq, Repr

/-- `slot(s) = s mod W`, the word of sequence number `s` (R62). -/
def ringSlot (W s : Nat) : Nat := s % W

/-- `MemRead(SW, i, 1)`, `MemRead(RW, i, 1)`: the word at logical offset `i` from the base (R62). -/
def ringRead (W base i : Nat) (store : List StoreWord) : Option StoreWord := store[ringSlot W (base + i)]?

/-! ## Sender store -/

/-- `SW[S.nextseqnum mod W] <- {f, 0}` (R147). -/
def ringPush (W next : Nat) (f : Frame) (store : List StoreWord) : List StoreWord := store.set (ringSlot W next) ⟨f, false⟩

/-- One bit of `SW[(S.base + i) mod W]` (R151). -/
def ringSetAcked (W base i : Nat) (store : List StoreWord) : List StoreWord :=
  store.modify (ringSlot W (base + i)) fun w => { w with mark := true }

/-- `S.win = [ SW[(S.base + i) mod W] for i in 0 .. S.count-1 ]` (R64). A pop writes no word: it changes base and count. -/
def ringWin (W base count : Nat) (store : List StoreWord) : List Entry :=
  (List.range count).filterMap fun i => (ringRead W base i store).map fun w => ⟨w.pkt, w.mark⟩

/-! ## Receiver store -/

/-- `RW[f.seqnum mod W] <- {f, 1}` (R157), for a frame numbered `s`. -/
def ringStore (W s : Nat) (f : Frame) (store : List StoreWord) : List StoreWord := store.set (ringSlot W s) ⟨f, true⟩

/-- `RW[R.base mod W].received <- 0` (R158, R64). -/
def ringRecycle (W base : Nat) (store : List StoreWord) : List StoreWord :=
  store.modify (ringSlot W base) fun w => { w with mark := false }

/-- `R.slot = [ RW[(R.base + i) mod W] for i in 0 .. W-1 ]` (R64); a word with `received = 0` is a blank. -/
def ringSlots (W base : Nat) (store : List StoreWord) : List (Option Frame) :=
  (List.range W).map fun i => (ringRead W base i store).bind fun w => if w.mark then some w.pkt else none

/-! ## Both stores at reset -/

/-- The one-bit fields of all words are "cleared together at reset"; the frame bits have no reset and stay as they are (R61). -/
def ringReset (store : List StoreWord) : List StoreWord := store.map fun w => { w with mark := false }

/-! ## Registers at their widths (R8) and the sequence arithmetic unit on them -/

/-- A sequence-number register: `SEQ_W` bits (R8, R20, R21, R26). -/
abbrev SeqReg (c : Straps) := BitVec c.seqW

/-- The register that holds a sequence number. -/
def seqReg (c : Straps) (n : Nat) : SeqReg c := BitVec.ofNat c.seqW n

/-- The sender's registers as the block holds them (R20, R21, R22, R25). -/
structure SenderRegs (c : Straps) where
  nextseqnum : SeqReg c
  base : SeqReg c
  count : BitVec c.cntW
  dup : BitVec 2
  deriving DecidableEq, Repr

/-- The registers of a sender. -/
def Sender.regs (c : Straps) (r : Sender) : SenderRegs c :=
  { nextseqnum := seqReg c r.nextseqnum, base := seqReg c r.base, count := BitVec.ofNat c.cntW r.win.length,
    dup := BitVec.ofNat 2 r.dup }

/-- The receiver's base register (R26). -/
def Receiver.baseReg (c : Straps) (r : Receiver) : SeqReg c := seqReg c r.base

/-- `seq_inc` on registers: "the sum is formed in `SEQ_W + 1` bits" (R121), with a wrap compare (R128). -/
def seqIncReg (c : Straps) (s : SeqReg c) : SeqReg c :=
  let t : BitVec (c.seqW + 1) := s.setWidth (c.seqW + 1) + 1
  if t.toNat = c.seqLen then 0 else t.setWidth c.seqW

/-- `seq_add` on registers. DESIGN CHOICE (log entry 22; safe): the sum is formed in `SEQ_W + 1` bits and reduced by one conditional
subtraction; R123 gives its value only, and the unit of R128 has no adder for it. -/
def seqAddReg (c : Straps) (s n : SeqReg c) : SeqReg c :=
  let t : BitVec (c.seqW + 1) := s.setWidth (c.seqW + 1) + n.setWidth (c.seqW + 1)
  if t.toNat < c.seqLen then t.setWidth c.seqW else (t - BitVec.ofNat (c.seqW + 1) c.seqLen).setWidth c.seqW

/-- `seq_dist` on registers: "the subtraction is formed in `SEQ_W + 1` bits, signed" (R122). -/
def seqDistReg (c : Straps) (a b : SeqReg c) : SeqReg c :=
  let t : BitVec (c.seqW + 1) := a.setWidth (c.seqW + 1) - b.setWidth (c.seqW + 1)
  if t.msb then (t + BitVec.ofNat (c.seqW + 1) c.seqLen).setWidth c.seqW else t.setWidth c.seqW

/-- The `SEQ_W`-bit magnitude comparator of the unit, `< len` (R128). -/
def seqLtReg (c : Straps) (d len : SeqReg c) : Bool := d.ult len

/-- The equality comparator of the unit, `= SEQ_LEN-1` (R128). -/
def seqIsLastReg (c : Straps) (d : SeqReg c) : Bool := d == seqReg c (c.seqLen - 1)

/-- `in_window` on registers: the subtractor, then the magnitude comparator (R124, R128). -/
def inWindowReg (c : Straps) (s b len : SeqReg c) : Bool := seqLtReg c (seqDistReg c s b) len

/-- The TCP-like sender's duplicate test, `a = seq_prev(b)`, on registers: the subtractor, then the equality comparator (R125,
R128). -/
def isPrevReg (c : Straps) (a b : SeqReg c) : Bool := seqIsLastReg c (seqDistReg c a b)

end Sys2Proof.Machine
end

