-- ==== Sys2Proof/Machine/Flags.lean ====
section
/-! DEFINITION. The block has no flags (`10_state.md` R32). What reports an outcome is the disposition: its 4-bit code
(`30_encoding.md` R106) and the application's view of it (`60_exceptions.md` R277). -/

namespace Sys2Proof.Machine

/-- The code of a disposition on the disposition port (R106). -/
def dispCode : Disposition → BitVec 4
  | .ok => 0
  | .windowFull => 1
  | .corrupt => 2
  | .badField => 3
  | .dupAck => 4
  | .fastRetx => 5
  | .staleAck => 6
  | .outOfOrder => 7
  | .dupData => 8
  | .oldData => 9
  | .spuriousTimeout => 10
  | .refused => 11

/-- `trySend(message) -> accepted`: "`accepted` is `disposition = OK`" (R277). -/
def accepted (r : Report) : Bool := decide (r.disp = some .ok)

/-- The dispositions each instruction can end with (the rows of `opcode_table.json`, the "given by" column of R106). -/
def dispositionsOf : Instr → List Disposition
  | .gbnSend _ | .srSend _ | .tcpSend _ => [.ok, .windowFull]
  | .gbnAck _ | .srAck _ => [.ok, .dupAck, .staleAck, .corrupt, .badField]
  | .tcpAck _ => [.ok, .dupAck, .fastRetx, .staleAck, .corrupt, .badField]
  | .gbnTimeout _ | .srTimeout _ | .tcpTimeout _ => [.ok, .spuriousTimeout]
  | .gbnData _ | .tcpData _ => [.ok, .outOfOrder, .corrupt, .badField]
  | .srData _ => [.ok, .dupData, .oldData, .corrupt, .badField]

end Sys2Proof.Machine
end

