-- ==== Sys2Proof/Safety.lean ====
section
/-! DEFINITION. What a safe state and a safe run are: the invariants of reachable states (`10_state.md` section 9), what a run
puts out (`00_scope.md` R16), the closed system of two endpoints of the end-to-end claim, and its fair infinite runs
(`70_reset_and_hazards.md` R300, R302, R306). -/

namespace Sys2Proof.Machine

/-! ## Invariants of one block -/

/-- Sender window shape (R46, R20 to R22). -/
structure SenderShape (c : Straps) (r : Sender) : Prop where
  base_lt : r.base < c.seqLen
  count_le : r.count ≤ c.windowLen
  next_eq : r.nextseqnum = seqAdd c.seqLen r.base r.count

/-- Sender entry contents: entry `i` is `mk_data(seq_add(S.base, i), m)` for a message `m` (R47). -/
def SenderFrames (c : Straps) (r : Sender) : Prop :=
  ∀ i e, r.win[i]? = some e → ∃ m : List Byte, m.length = c.payloadSize ∧ e.pkt = mkData c (seqAdd c.seqLen r.base i) m

/-- Acknowledged marks: none in GBN and TCP-like; in SR the front entry is unacknowledged (R48). -/
def AckedMarks (c : Straps) (r : Sender) : Prop :=
  (c.variant ≠ 1#2 → ∀ e ∈ r.win, e.acked = false) ∧ (∀ e, r.win.head? = some e → e.acked = false)

/-- `S.dup ≤ 2`, and 0 in GBN and SR (R54). -/
def DupBound (c : Straps) (r : Sender) : Prop := r.dup ≤ 2 ∧ (c.variant ≠ 2#2 → r.dup = 0)

/-- Which timers run. GBN and TCP-like: exactly `S.base`, when the window is not empty (R49). SR: exactly the numbers of the
unacknowledged entries (R50). -/
def shouldRun (c : Straps) (r : Sender) (k : Nat) : Prop :=
  if c.variant = 1#2 then ∃ i e, r.win[i]? = some e ∧ e.acked = false ∧ k = seqAdd c.seqLen r.base i
  else r.win ≠ [] ∧ k = r.base

/-- One cell for each key, and the running bits are those of R49 and R50. -/
def TimerSet (c : Straps) (r : Sender) (ta : List TimerCell) : Prop :=
  ta.length = c.seqLen ∧ ∀ k, running k ta = true ↔ shouldRun c r k

/-- The receiver's registers are in range and the cached ACK is a complete ACK frame (R26, R27, R28). -/
structure ReceiverShape (c : Straps) (r : Receiver) : Prop where
  base_lt : r.base < c.seqLen
  slots_length : r.slots.length = c.windowLen
  lastAck_canonical : ∃ a < c.seqLen, r.lastAck = mkAck c a

/-- GBN and TCP-like receiver: the cached ACK acknowledges `R.base - 1` (R51) and the store is unused (R28). -/
def CumulativeAck (c : Straps) (r : Receiver) : Prop :=
  c.variant ≠ 1#2 → r.lastAck = mkAck c (seqPrev c.seqLen r.base) ∧ ∀ i, rwGet i r = none

/-- SR receiver: the front slot is blank, and a received slot `i` holds a frame that passed `data_ok` and is numbered
`seq_add(R.base, i)` (R52). -/
def SlotFrames (c : Straps) (r : Receiver) : Prop :=
  rwGet 0 r = none ∧
    ∀ i f, rwGet i r = some f →
      dataOk c f = true ∧ f.payload.length = c.payloadSize ∧ f.seqnum.toInt = (seqAdd c.seqLen r.base i : Int)

/-- With the reserved strap value every event is refused (R41), so the window stays empty. -/
def ReservedIdle (c : Straps) (r : Sender) : Prop := c.variant = 3#2 → r.win = []

/-- The sender's half of the invariant. -/
structure SenderInv (s : State) : Prop where
  shape : SenderShape s.straps s.snd
  frames : SenderFrames s.straps s.snd
  marks : AckedMarks s.straps s.snd
  dup : DupBound s.straps s.snd
  timers : TimerSet s.straps s.snd s.ta
  reserved : ReservedIdle s.straps s.snd

/-- The receiver's half of the invariant. -/
structure ReceiverInv (s : State) : Prop where
  shape : ReceiverShape s.straps s.rcv
  cumulative : CumulativeAck s.straps s.rcv
  slots : SlotFrames s.straps s.rcv

/-- The invariant of reachable states (`10_state.md` section 9). -/
structure State.Inv (s : State) : Prop where
  sender : SenderInv s
  receiver : ReceiverInv s

/-! ## Runs -/

/-- The payload an action delivers. -/
def Action.delivered : Action → Option (List Byte)
  | .deliver m => some m
  | .txData _ | .txAck _ | .tmrStart _ _ | .tmrStop _ => none

/-- The payloads a step delivered, in order. -/
def Report.delivered (r : Report) : List (List Byte) := r.actions.filterMap Action.delivered

/-- The frames a step handed to the channel as data. -/
def Report.dataFrames (r : Report) : List Frame :=
  r.actions.filterMap fun a => match a with
    | .txData f => some f
    | .txAck _ | .tmrStart _ _ | .tmrStop _ | .deliver _ => none

/-- The frames a step handed to the channel as acknowledgments. -/
def Report.ackFrames (r : Report) : List Frame :=
  r.actions.filterMap fun a => match a with
    | .txAck f => some f
    | .txData _ | .tmrStart _ _ | .tmrStop _ | .deliver _ => none

/-- What the first `n` steps of a run put on the ports (R16). -/
def runReports : Nat → State → List Report
  | 0, _ => []
  | n + 1, s =>
    match step s with
    | .next t => t.out :: runReports n t
    | .fault _ => []
    | .refused _ => []

/-- The state after `n` steps of a run, where it does not stop. -/
def runState : Nat → State → Option State
  | 0, s => some s
  | n + 1, s =>
    match step s with
    | .next t => runState n t
    | .fault _ => none
    | .refused _ => none

/-- A sender is quiescent "when its window is empty and no timer is running" (R16). -/
def State.Quiescent (s : State) : Prop := s.snd.win = [] ∧ ∀ k, running k s.ta = false

/-! ## The closed system of R300 -/

/-- Endpoint A's sender and endpoint B's receiver, with what the claims speak of: the messages of the accepted `SEND`s and
their frames, the payloads delivered, and each acknowledgment handed to the channel with the index of the message it was
built for. -/
structure ClosedSystem where
  a : State
  b : State
  messages : List (List Byte)
  frames : List Frame
  delivered : List (List Byte)
  acks : List (Int × Frame)
  deriving DecidableEq, Repr

/-- The index of the message the acknowledgments of a `DATA` step were built for: the packet's own in SR (R206), the last one
delivered in GBN and TCP-like (R51), -1 for the ACK cached at reset. DEDUCED (log entry 21): (H-c) speaks of "an ACK frame
built for message `j`" and does not say which that is for a cached ACK. -/
def ackIndex (v : Variant) (j : Nat) (deliveredNow : Nat) : Int :=
  match v with
  | .sr => j
  | .gbn | .tcp => (deliveredNow : Int) - 1

/-- What may happen next in the closed system: the application sends, a timer expires, the channel brings an acknowledgment
or a data frame (number `j` of those handed to it) or a frame that fails its checksum, or nothing happens. -/
inductive ClosedMove where
  | send (m : List Byte)
  | expiry (k : Word32)
  | ack (j : Int) (f : Frame)
  | corruptAck (f : Frame)
  | data (j : Nat) (f : Frame)
  | corruptData (f : Frame)
  | wait
  deriving DecidableEq, Repr

/-- The moves that are events of A's sender. -/
def ClosedMove.atSender : ClosedMove → Bool
  | .send _ | .expiry _ | .ack _ _ | .corruptAck _ => true
  | .data _ _ | .corruptData _ | .wait => false

/-- The moves that are events of B's receiver. -/
def ClosedMove.atReceiver : ClosedMove → Bool
  | .data _ _ | .corruptData _ => true
  | .send _ | .expiry _ | .ack _ _ | .corruptAck _ | .wait => false

/-- The steps of the closed system under (H-b) and (H-c) of R300. The channel may lose, duplicate, delay and corrupt; an arriving
frame is one the peer emitted, young enough, or fails its checksum. -/
inductive ClosedStep (c : Straps) (v : Variant) (y : ClosedSystem) : ClosedMove → ClosedSystem → Prop where
  | send {m : List Byte} {a' : State} (hm : m.length = c.payloadSize) (hx : exec (Instr.ofSend m v) y.a = .next a') :
      ClosedStep c v y (.send m) { y with
        a := a'
        messages := y.messages ++ (if accepted a'.out then [m] else [])
        frames := y.frames ++ a'.out.dataFrames }
  | expiry {k : Word32} {a' : State} (hx : expire k y.a = .next a') : ClosedStep c v y (.expiry k) { y with a := a' }
  | ack {j : Int} {f : Frame} {a' : State} (hf : (j, f) ∈ y.acks) (age : (y.messages.length : Int) - c.seqLen < j)
      (hx : exec (Instr.ofAck f v) y.a = .next a') : ClosedStep c v y (.ack j f) { y with a := a' }
  | corruptAck {f : Frame} {a' : State} (hf : valid c f = false) (hx : exec (Instr.ofAck f v) y.a = .next a') :
      ClosedStep c v y (.corruptAck f) { y with a := a' }
  | data {j : Nat} {f : Frame} {b' : State} (hf : y.frames[j]? = some f) (age : y.delivered.length ≤ j + c.windowLen)
      (hx : exec (Instr.ofData f v) y.b = .next b') :
      ClosedStep c v y (.data j f) { y with
        b := b'
        delivered := y.delivered ++ b'.out.delivered
        acks := y.acks ++ b'.out.ackFrames.map fun g =>
          (ackIndex v j (y.delivered.length + b'.out.delivered.length), g) }
  | corruptData {f : Frame} {b' : State} (hf : valid c f = false) (hx : exec (Instr.ofData f v) y.b = .next b') :
      ClosedStep c v y (.corruptData f) { y with
        b := b'
        acks := y.acks ++ b'.out.ackFrames.map fun g => (ackIndex v 0 y.delivered.length, g) }
  | wait : ClosedStep c v y .wait y

/-- Both endpoints after reset, with empty channels: (H-a) of R300. They share `VARIANT`, `W`, `P` and the checksum function;
"`TIMEOUT_MS` may differ between peers" (R283). -/
def ClosedSystem.start (c : Straps) (timeoutB : Word32) : ClosedSystem :=
  { a := State.init c, b := State.init { c with timeoutMs := timeoutB }, messages := [], frames := [], delivered := [],
    acks := [] }

/-- The states of the closed system under (H-a), (H-b) and (H-c) of R300. -/
inductive Closed (c : Straps) (timeoutB : Word32) (v : Variant) : ClosedSystem → Prop where
  | start : Closed c timeoutB v (ClosedSystem.start c timeoutB)
  | step {y y' : ClosedSystem} {x : ClosedMove} (h : Closed c timeoutB v y) (hs : ClosedStep c v y x y') :
      Closed c timeoutB v y'

/-! ## Infinite runs and fairness (R302, R306) -/

/-- An infinite run of the closed system: its states and the move taken at each. It may wait for ever. -/
structure ClosedRun (c : Straps) (timeoutB : Word32) (v : Variant) where
  sys : Nat → ClosedSystem
  move : Nat → ClosedMove
  starts : sys 0 = ClosedSystem.start c timeoutB
  steps : ∀ n, ClosedStep c v (sys n) (move n) (sys (n + 1))

/-- At infinitely many positions of a run. -/
def InfinitelyOften (p : Nat → Prop) : Prop := ∀ n, ∃ m, n ≤ m ∧ p m

/-- The fairness of R306. (b) and (c) say nothing at the transaction level: a move is at once an event served, and its actions are
at once taken. -/
structure ClosedRun.Fair {c : Straps} {timeoutB : Word32} {v : Variant} (r : ClosedRun c timeoutB v) : Prop where
  /-- (a): a timer that runs from some point on expires, again and again. DEDUCED (log entry 20): read with R292, by which a
  stream of restarts that postpones a timeout for ever is not fair. -/
  timers : ∀ k, (∃ n, ∀ m, n ≤ m → running k (r.sys m).a.ta = true) →
    InfinitelyOften fun m => ∃ w : Word32, r.move m = .expiry w ∧ w.toNat = k
  /-- (d) for data: a frame transmitted infinitely often arrives uncorrupted infinitely often. -/
  data : ∀ f, (InfinitelyOften fun m => (r.move m).atSender = true ∧ f ∈ (r.sys (m + 1)).a.out.dataFrames) →
    InfinitelyOften fun m => ∃ j, r.move m = .data j f
  /-- (d) for acknowledgments. -/
  acks : ∀ f, (InfinitelyOften fun m => (r.move m).atReceiver = true ∧ f ∈ (r.sys (m + 1)).b.out.ackFrames) →
    InfinitelyOften fun m => ∃ j, r.move m = .ack j f

end Sys2Proof.Machine
end

