-- ==== Sys2Proof/Certificates/Slice0/Obligations.lean ====
section
/-! DEFINITION. The statements for the provers. Each docstring names the rule of `spec/` it formalises, or says that it rests on
what the spec derives or on a choice of the model. -/

open Sys2Proof Sys2Proof.Machine

/-! ## Encoding -/

/-- Decoding the encoded word of any well-formed instruction, under that instruction's `VARIANT` strap, gives the instruction,
with every operand (`30_encoding.md` sections 2 and 4). -/
def Obligations.DecodeOfEncodeIsTheInstruction : Prop :=
  ∀ (P : Nat) (i : Instr), i.wf P = true → decode i.variant.code P (encode P i) = .ok i

/-- A word that decodes is the encoding of what it decodes to, but for the bytes R107 calls ignored: 1 to 12 of `SEND` and 5 on
of `TIMEOUT`. -/
def Obligations.DecodedWordIsTheEncodingUpToIgnoredBytes : Prop :=
  ∀ (v : BitVec 2) (P : Nat) (w : List Byte) (i : Instr), decode v P w = .ok i →
    i.wf P = true ∧ i.variant.code = v ∧ w.length = 13 + P ∧
      match i.kind with
      | .ack | .data => w = encode P i
      | .send => w.take 1 = (encode P i).take 1 ∧ w.drop 13 = (encode P i).drop 13
      | .timeout => w.take 5 = (encode P i).take 5

/-- R118: the decode procedure is total on words of the port's width; it refuses exactly the reserved encodings and otherwise
gives the pair of `VARIANT` and kind byte, with no further check. -/
def Obligations.PortWidthWordDecodesOrIsReserved : Prop :=
  ∀ (v : BitVec 2) (P : Nat) (k : Byte) (body : List Byte), body.length = 12 + P →
    (v = 3#2 → decode v P (k :: body) = .error .reservedVariant) ∧
    (v ≠ 3#2 → 3 < k.toNat → decode v P (k :: body) = .error .reservedKind) ∧
    (v ≠ 3#2 → k.toNat ≤ 3 →
      ∃ i, decode v P (k :: body) = .ok i ∧ i.variant.code = v ∧ i.kind.code = k ∧ i.wf P = true)

/-- The event words the spec writes out with `P = 4` (R119), and V89, whose ignored bytes are not zero (R107): each under one
variant, between them under all three. -/
def Obligations.WorkedEventWordsDecode : Prop :=
  decode 0#2 4 [0x00, 0, 0, 0, 0, 0, 0, 0, 0, 0, 0, 0, 0, 0x4D, 0x53, 0x47, 0x30]
    = .ok (.gbnSend [0x4D, 0x53, 0x47, 0x30]) ∧
  decode 1#2 4 [0x01, 0, 0, 0, 0, 0, 0, 0, 1, 0x00, 0x19, 0x00, 0x02, 0, 0, 0, 0]
    = .ok (.srAck ⟨0#32, 1#32, 0x00190002#32, [0, 0, 0, 0]⟩) ∧
  decode 2#2 4 [0x02, 0, 0, 0, 6, 0, 0, 0, 0, 0, 0, 0, 0, 0, 0, 0, 0] = .ok (.tcpTimeout 6#32) ∧
  decode 1#2 4 [0x03, 0, 0, 0, 1, 0xFF, 0xFF, 0xFF, 0xFF, 0x2C, 0xDF, 0x05, 0x16, 0x4D, 0x53, 0x47, 0x31]
    = .ok (.srData ⟨1#32, 0xFFFFFFFF#32, 0x2CDF0516#32, [0x4D, 0x53, 0x47, 0x31]⟩) ∧
  decode 0#2 4 [0x00, 0xDE, 0xAD, 0xBE, 0xEF, 0x01, 0x23, 0x45, 0x67, 0x89, 0xAB, 0xCD, 0xEF, 0x4D, 0x53, 0x47, 0x30]
    = .ok (.gbnSend [0x4D, 0x53, 0x47, 0x30])

/-- The action words the spec writes out with `P = 4` and `TIMEOUT_MS = 1000` (R119). -/
def Obligations.WorkedActionWords : Prop :=
  (Action.txData ⟨0#32, 0xFFFFFFFF#32, 0x2CD10514#32, [0x4D, 0x53, 0x47, 0x30]⟩).encode 4
    = [0x00, 0, 0, 0, 0, 0xFF, 0xFF, 0xFF, 0xFF, 0x2C, 0xD1, 0x05, 0x14, 0x4D, 0x53, 0x47, 0x30] ∧
  (Action.txAck ⟨0#32, 7#32, 0x004F0008#32, [0, 0, 0, 0]⟩).encode 4
    = [0x01, 0, 0, 0, 0, 0, 0, 0, 7, 0x00, 0x4F, 0x00, 0x08, 0, 0, 0, 0] ∧
  (Action.tmrStart 2 1000#32).encode 4 = [0x02, 0, 0, 0, 2, 0, 0, 0x03, 0xE8, 0, 0, 0, 0, 0, 0, 0, 0] ∧
  (Action.tmrStop 0).encode 4 = [0x03, 0, 0, 0, 0, 0, 0, 0, 0, 0, 0, 0, 0, 0, 0, 0, 0] ∧
  (Action.deliver [0x4D, 0x53, 0x47, 0x33]).encode 4
    = [0x04, 0, 0, 0, 0, 0, 0, 0, 0, 0, 0, 0, 0, 0x4D, 0x53, 0x47, 0x33]

/-- Every key of the opcode table, presented as `withFetchWord` does, is what the very next step runs, under the key's `VARIANT`
(R105; the presentation is the model's, log entry 3). -/
def Obligations.PresentedTableKeyRunsNext : Prop :=
  ∀ (s : State) (key : Nat) (v : Variant) (k : EventKind), key = v.code.toNat * 256 + k.code.toNat →
    ∃ i, i.variant = v ∧ i.kind = k ∧ i.wf s.straps.payloadSize = true ∧
      step (s.withFetchWord 16 key) = exec i { s with straps := { s.straps with variant := v.code } }

/-! ## Checksum -/

/-- R89: the checksum is that of the packet with its checksum field zeroed, and must match for the packet to be valid; for every
checksum function the block may be built with. -/
def Obligations.ValidMeansChecksumOfZeroedFrame : Prop :=
  ∀ (c : Straps) (f : Frame),
    valid c f = true ↔ f.checksum = checksumOf c.checksum { f with checksum := 0#32 }.toBytes

/-- The default checksum function has the properties of R131 (`CK-BYTE`, `CK-ORDER`), for every payload size. -/
def Obligations.DefaultChecksumMeetsTheContract : Prop :=
  ∀ c : Straps, c.checksum = .arqCk32 → ChecksumContract c

/-- The closed form of `ARQ-CK32` given with R133: `a = 1 + Σ B[i]`, `b = N + Σ (N - i)·B[i]`, both modulo `2^16`, and the result
`b ++ a`. -/
def Obligations.ChecksumClosedForm : Prop :=
  ∀ B : List Byte,
    arqCk32 B =
      BitVec.ofNat 16 (B.length + (B.mapIdx fun i x => (B.length - i) * x.toNat).sum) ++
        BitVec.ofNat 16 (1 + (B.map (·.toNat)).sum)

/-- `CK-BYTE` as the document says it (R131, "flipping any single payload byte makes `validate(P)` false"): a checksum function
has it exactly when changing any single payload byte of any valid packet makes it invalid. -/
def Obligations.PayloadByteChangeInvalidates : Prop :=
  ∀ c : Straps, CkByte c ↔
    ∀ (f : Frame) (i : Nat) (y : Byte), f.wf c.payloadSize → valid c f = true → i < f.payload.length →
      f.payload[i]? ≠ some y → valid c { f with payload := f.payload.set i y } = false

/-- The spec's derivation (a) for `ARQ-CK32`: changing any single byte of a valid frame, header and checksum included, makes it
invalid. -/
def Obligations.AnyByteChangeInvalidates : Prop :=
  ∀ (c : Straps) (f g : Frame) (i : Nat) (y : Byte), c.checksum = .arqCk32 → valid c f = true → i < f.toBytes.length →
    f.toBytes[i]? ≠ some y → Frame.ofBytes (f.toBytes.set i y) = some g → valid c g = false

/-- The spec's derivation (b) for `ARQ-CK32` (`CK-ORDER`): swapping two different bytes of a string of at most 257 bytes changes
its checksum. -/
def Obligations.ByteSwapChangesChecksum : Prop :=
  ∀ (B : List Byte) (i j : Nat) (x y : Byte), i < j → B[i]? = some x → B[j]? = some y → x ≠ y → B.length ≤ 257 →
    arqCk32 ((B.set i y).set j x) ≠ arqCk32 B

/-! ## Sequence arithmetic -/

/-- The two laws given with R123 and the corner cases given with R122. -/
def Obligations.SeqDistAndSeqAddAreInverse : Prop :=
  ∀ (L a b n : Nat), a < L → b < L → n < L →
    seqDist L (seqAdd L b n) b = n ∧ seqAdd L b (seqDist L a b) = a ∧
      (a ≠ b → seqDist L a b + seqDist L b a = L) ∧ seqDist L (seqPrev L b) b = L - 1

/-- R124: `in_window(s, b, len)` holds exactly for the `len` numbers `b, b+1, ..., b+len-1` modulo `SEQ_LEN`. -/
def Obligations.InWindowIsTheRunOfNumbers : Prop :=
  ∀ (L s b len : Nat), s < L → b < L → len ≤ L →
    (inWindow L s b len = true ↔ ∃ i < len, s = seqAdd L b i)

/-- R125: `seq_prev(b)` is the number just behind `b`, `SEQ_LEN-1` when `b = 0`; and `a = seq_prev(b)` exactly when
`seq_dist(a, b) = SEQ_LEN-1`. -/
def Obligations.PreviousNumberIsTheFarthest : Prop :=
  ∀ (W a b : Nat), 0 < W → a < 2 * W → b < 2 * W →
    seqPrev (2 * W) b = (if b = 0 then 2 * W - 1 else b - 1) ∧
      (a = seqPrev (2 * W) b ↔ seqDist (2 * W) a b = 2 * W - 1)

/-- R126: with `SEQ_LEN = 2W` every number is in the current window or in the previous one, never in both. -/
def Obligations.CurrentAndPreviousWindowPartitionTheSpace : Prop :=
  ∀ (W s r : Nat), s < 2 * W → r < 2 * W →
    ((∃ i < W, s = seqAdd (2 * W) r i) ∧ ¬ ∃ i, 1 ≤ i ∧ i ≤ W ∧ s = seqDist (2 * W) r i) ∨
    ((¬ ∃ i < W, s = seqAdd (2 * W) r i) ∧ ∃ i, 1 ≤ i ∧ i ≤ W ∧ s = seqDist (2 * W) r i)

/-- The sequence arithmetic unit on registers of `SEQ_W` bits, with its sum and difference of `SEQ_W + 1` bits and its two
comparators (R121, R122, R128), computes `seq_inc`, `seq_dist`, `in_window` and the test `= SEQ_LEN-1` for every window
length; so does the adder for `seq_add`, whose form is the model's (log entry 22). -/
def Obligations.SequenceUnitComputesTheArithmetic : Prop :=
  ∀ (c : Straps) (a b : Nat), a < c.seqLen → b < c.seqLen →
    (seqIncReg c (seqReg c a)).toNat = seqInc c.seqLen a ∧
    (seqAddReg c (seqReg c a) (seqReg c b)).toNat = seqAdd c.seqLen a b ∧
    (seqDistReg c (seqReg c a) (seqReg c b)).toNat = seqDist c.seqLen a b ∧
    (∀ len, len ≤ c.windowLen → inWindowReg c (seqReg c a) (seqReg c b) (seqReg c len) = inWindow c.seqLen a b len) ∧
    (isPrevReg c (seqReg c a) (seqReg c b) = true ↔ seqDist c.seqLen a b = c.seqLen - 1)

/-! ## The window stores as rings -/

/-- The sender's ring `SW` refines the sender window: the physical push, pop and mark give, through the abstraction function,
the abstract ones (`20_memory.md` section 1, `42_window_buffer.md` section 1). -/
def Obligations.SenderRingRefinesWindow : Prop :=
  ∀ (c : Straps) (r : Sender) (store : List StoreWord) (f : Frame) (n i : Nat),
    SenderShape c r → store.length = c.windowLen → r.win = ringWin c.windowLen r.base r.count store →
    (r.count < c.windowLen →
      (swPush f r).win = ringWin c.windowLen r.base (r.count + 1) (ringPush c.windowLen r.nextseqnum f store)) ∧
    (n ≤ r.count →
      (swPopFront c.seqLen n r).win = ringWin c.windowLen (swPopFront c.seqLen n r).base (r.count - n) store) ∧
    (i < r.count → (swSetAcked i r).win = ringWin c.windowLen r.base r.count (ringSetAcked c.windowLen r.base i store))

/-- The receiver's ring `RW` refines the receiver window: storing at word `f.seqnum mod W`, and clearing one bit as the base
advances, are `rw_store` and `rw_shift` (`20_memory.md` section 1, `42_window_buffer.md` section 2). -/
def Obligations.ReceiverRingRefinesWindow : Prop :=
  ∀ (c : Straps) (r : Receiver) (store : List StoreWord) (f : Frame) (i : Nat),
    r.base < c.seqLen → store.length = c.windowLen → r.slots = ringSlots c.windowLen r.base store →
    (i < c.windowLen →
      (rwStore i f r).slots
        = ringSlots c.windowLen r.base (ringStore c.windowLen (seqAdd c.seqLen r.base i) f store)) ∧
    (rwShift c.seqLen r).slots
      = ringSlots c.windowLen (rwShift c.seqLen r).base (ringRecycle c.windowLen r.base store)

/-- Reset of the physical stores (`20_memory.md` R61): whatever the words of two stores of `W` words hold, clearing all their
one-bit fields together, frame bits left as they are, gives stores whose abstraction is the windows that reset leaves. -/
def Obligations.RingResetRefinesReset : Prop :=
  ∀ (s : State) (v : BitVec 2) (T : Word32) (rest : List Stimulus) (sw rw : List StoreWord),
    s.inputs = .rst v T :: rest → sw.length = s.straps.windowLen → rw.length = s.straps.windowLen →
    (ringReset sw).map (·.pkt) = sw.map (·.pkt) ∧ (ringReset rw).map (·.pkt) = rw.map (·.pkt) ∧
    (∀ w ∈ ringReset sw ++ ringReset rw, w.mark = false) ∧
    ∃ t, step s = .next t ∧
      t.snd.win = ringWin s.straps.windowLen t.snd.base t.snd.count (ringReset sw) ∧
      t.rcv.slots = ringSlots s.straps.windowLen t.rcv.base (ringReset rw)

/-! ## What each instruction does -/

/-- `GBN.SEND` (R166) and `TCP.SEND` (R222): rejected without a trace if the window is full; otherwise transmit, start the timer
of the base if the new packet is the window's oldest (which, for a sender window of legal shape, is exactly an empty
window), append, advance `S.nextseqnum`. Nothing else changes. -/
def Obligations.FifoSendResult : Prop :=
  ∀ (s : State) (m : List Byte) (i : Instr), i = .gbnSend m ∨ i = .tcpSend m →
    (s.snd.count = s.straps.windowLen →
      exec i s = .next { s with out := ⟨some .sender, [], some .windowFull⟩ }) ∧
    (s.snd.count ≠ s.straps.windowLen →
      exec i s = .next { s with
        snd := { s.snd with
          nextseqnum := (s.snd.nextseqnum + 1) % s.straps.seqLen
          win := s.snd.win ++ [⟨mkData s.straps s.snd.nextseqnum m, false⟩] }
        ta := if s.snd.base = s.snd.nextseqnum then timerStart s.snd.base s.straps.timeoutMs s.ta else s.ta
        out := ⟨some .sender,
          if s.snd.base = s.snd.nextseqnum
            then [.txData (mkData s.straps s.snd.nextseqnum m), .tmrStart s.snd.base s.straps.timeoutMs]
            else [.txData (mkData s.straps s.snd.nextseqnum m)],
          some .ok⟩ }) ∧
    (SenderShape s.straps s.snd → (s.snd.base = s.snd.nextseqnum ↔ s.snd.count = 0))

/-- `SR.SEND` (R192): rejected without a trace if the window is full; otherwise append `(packet, false)`, start the timer keyed
by the packet's own number, then transmit, and advance `S.nextseqnum`. Nothing else changes. -/
def Obligations.SrSendResult : Prop :=
  ∀ (s : State) (m : List Byte),
    (s.snd.count = s.straps.windowLen →
      exec (.srSend m) s = .next { s with out := ⟨some .sender, [], some .windowFull⟩ }) ∧
    (s.snd.count ≠ s.straps.windowLen →
      exec (.srSend m) s = .next { s with
        snd := { s.snd with
          nextseqnum := (s.snd.nextseqnum + 1) % s.straps.seqLen
          win := s.snd.win ++ [⟨mkData s.straps s.snd.nextseqnum m, false⟩] }
        ta := timerStart s.snd.nextseqnum s.straps.timeoutMs s.ta
        out := ⟨some .sender,
          [.tmrStart s.snd.nextseqnum s.straps.timeoutMs, .txData (mkData s.straps s.snd.nextseqnum m)], some .ok⟩ })

/-- `GBN.ACK` (R168): a bad frame does nothing, the checksum being tested before the range. On a valid ACK of `a`, with `n` the
number of entries it covers, the timer of the old base is stopped; if the window holds `n` entries they are popped and the
base becomes `a + 1`; the timer of the base is started again if the window is not empty. Nothing else changes. -/
def Obligations.GbnAckResult : Prop :=
  ∀ (s : State) (f : Frame),
    (f.checksum ≠ ck s.straps f → exec (.gbnAck f) s = .next { s with out := ⟨some .sender, [], some .corrupt⟩ }) ∧
    (f.checksum = ck s.straps f → ¬ (0 ≤ f.acknum.toInt ∧ f.acknum.toInt < s.straps.seqLen) →
      exec (.gbnAck f) s = .next { s with out := ⟨some .sender, [], some .badField⟩ }) ∧
    (∀ a n : Nat, f.checksum = ck s.straps f → f.acknum.toInt = a → a < s.straps.seqLen →
      n = seqDist s.straps.seqLen (seqInc s.straps.seqLen a) s.snd.base →
      (n ≤ s.snd.count →
        exec (.gbnAck f) s = .next { s with
          snd := { s.snd with base := seqAdd s.straps.seqLen s.snd.base n, win := s.snd.win.drop n }
          ta := if n < s.snd.count
            then timerStart (seqAdd s.straps.seqLen s.snd.base n) s.straps.timeoutMs (timerStop s.snd.base s.ta)
            else timerStop s.snd.base s.ta
          out := ⟨some .sender,
            .tmrStop s.snd.base ::
              (if n < s.snd.count then [.tmrStart (seqAdd s.straps.seqLen s.snd.base n) s.straps.timeoutMs] else []),
            some (if n = 0 then .dupAck else .ok)⟩ }) ∧
      (s.snd.count < n →
        exec (.gbnAck f) s = .next { s with
          ta := if 0 < s.snd.count
            then timerStart s.snd.base s.straps.timeoutMs (timerStop s.snd.base s.ta)
            else timerStop s.snd.base s.ta
          out := ⟨some .sender,
            .tmrStop s.snd.base :: (if 0 < s.snd.count then [.tmrStart s.snd.base s.straps.timeoutMs] else []),
            some .staleAck⟩ }) ∧
      (s.snd.base < s.straps.seqLen → seqAdd s.straps.seqLen s.snd.base n = (a + 1) % s.straps.seqLen))

/-- `GBN.TIMEOUT` (R170): for the base of a non-empty window the timer is stopped and started again and every packet of the
window is transmitted again, in window order, as many as the window holds; any other key does nothing. No sender state
changes. -/
def Obligations.GbnTimeoutResult : Prop :=
  ∀ (s : State) (k : Word32),
    (s.snd.count = 0 ∨ k.toNat ≠ s.snd.base →
      exec (.gbnTimeout k) s = .next { s with out := ⟨some .sender, [], some .spuriousTimeout⟩ }) ∧
    (s.snd.count ≠ 0 → k.toNat = s.snd.base →
      ∃ t, exec (.gbnTimeout k) s = .next t ∧
        t = { s with
          ta := timerStart s.snd.base s.straps.timeoutMs (timerStop s.snd.base s.ta)
          out := ⟨some .sender,
            [.tmrStop s.snd.base, .tmrStart s.snd.base s.straps.timeoutMs] ++ s.snd.win.map fun e => .txData e.pkt,
            some .ok⟩ } ∧
        t.out.dataFrames = s.snd.win.map (·.pkt) ∧ t.out.dataFrames.length = s.snd.count)

/-- `GBN.DATA` (R181) and `TCP.DATA` (R241): the expected number is delivered, acknowledged, cached, and the base advances;
anything else resends the cached ACK and changes nothing. -/
def Obligations.InOrderDataResult : Prop :=
  ∀ (s : State) (f : Frame) (i : Instr), i = .gbnData f ∨ i = .tcpData f →
    (f.checksum ≠ ck s.straps f →
      exec i s = .next { s with out := ⟨some .receiver, [.txAck s.rcv.lastAck], some .corrupt⟩ }) ∧
    (f.checksum = ck s.straps f → ¬ (0 ≤ f.seqnum.toInt ∧ f.seqnum.toInt < s.straps.seqLen) →
      exec i s = .next { s with out := ⟨some .receiver, [.txAck s.rcv.lastAck], some .badField⟩ }) ∧
    (f.checksum = ck s.straps f → 0 ≤ f.seqnum.toInt ∧ f.seqnum.toInt < s.straps.seqLen → f.seqnum.toInt ≠ s.rcv.base →
      exec i s = .next { s with out := ⟨some .receiver, [.txAck s.rcv.lastAck], some .outOfOrder⟩ }) ∧
    (f.checksum = ck s.straps f → f.seqnum.toInt = s.rcv.base → s.rcv.base < s.straps.seqLen →
      exec i s = .next { s with
        rcv := { s.rcv with
          base := (s.rcv.base + 1) % s.straps.seqLen
          lastAck := mkAck s.straps s.rcv.base }
        out := ⟨some .receiver, [.deliver f.payload, .txAck (mkAck s.straps s.rcv.base)], some .ok⟩ })

/-- `SR.ACK` (R193): a bad frame does nothing. On a valid ACK of `a`: outside the window or already acknowledged, nothing
changes; otherwise the entry is marked, its own timer is stopped, and the acknowledged prefix leaves the window. -/
def Obligations.SrAckResult : Prop :=
  ∀ (s : State) (f : Frame),
    (f.checksum ≠ ck s.straps f → exec (.srAck f) s = .next { s with out := ⟨some .sender, [], some .corrupt⟩ }) ∧
    (f.checksum = ck s.straps f → ¬ (0 ≤ f.acknum.toInt ∧ f.acknum.toInt < s.straps.seqLen) →
      exec (.srAck f) s = .next { s with out := ⟨some .sender, [], some .badField⟩ }) ∧
    (∀ a idx : Nat, f.checksum = ck s.straps f → f.acknum.toInt = a → a < s.straps.seqLen →
      idx = seqDist s.straps.seqLen a s.snd.base →
      (s.snd.count ≤ idx → exec (.srAck f) s = .next { s with out := ⟨some .sender, [], some .staleAck⟩ }) ∧
      (∀ e, s.snd.win[idx]? = some e → e.acked = true →
        exec (.srAck f) s = .next { s with out := ⟨some .sender, [], some .dupAck⟩ }) ∧
      (∀ e, s.snd.win[idx]? = some e → e.acked = false → s.snd.base < s.straps.seqLen →
        ∀ (marked : List Entry) (j : Nat), marked = s.snd.win.set idx ⟨e.pkt, true⟩ →
          j = (marked.takeWhile (·.acked)).length →
          exec (.srAck f) s = .next { s with
            snd := { s.snd with base := seqAdd s.straps.seqLen s.snd.base j, win := marked.drop j }
            ta := timerStop a s.ta
            out := ⟨some .sender, [.tmrStop a], some .ok⟩ }))

/-- `SR.TIMEOUT` (R195): the key of an unacknowledged entry restarts that entry's timer and retransmits that packet only; any
other key does nothing. No sender state changes. -/
def Obligations.SrTimeoutResult : Prop :=
  ∀ (s : State) (k : Word32) (idx : Nat), idx = seqDist s.straps.seqLen k.toNat s.snd.base →
    (s.straps.seqLen ≤ k.toNat ∨ s.snd.count ≤ idx ∨ (∃ e, s.snd.win[idx]? = some e ∧ e.acked = true) →
      exec (.srTimeout k) s = .next { s with out := ⟨some .sender, [], some .spuriousTimeout⟩ }) ∧
    (∀ e, k.toNat < s.straps.seqLen → s.snd.win[idx]? = some e → e.acked = false →
      exec (.srTimeout k) s = .next { s with
        ta := timerStart k.toNat s.straps.timeoutMs s.ta
        out := ⟨some .sender, [.tmrStart k.toNat s.straps.timeoutMs, .txData e.pkt], some .ok⟩ })

/-- `SR.DATA` (R206, R207, R208, R210): a bad frame does nothing; a new packet of the window is acknowledged by its own number,
buffered, and the received prefix is delivered in order and recycled as blanks; any other valid packet is only
acknowledged. -/
def Obligations.SrDataResult : Prop :=
  ∀ (s : State) (f : Frame),
    (f.checksum ≠ ck s.straps f → exec (.srData f) s = .next { s with out := ⟨some .receiver, [], some .corrupt⟩ }) ∧
    (f.checksum = ck s.straps f → ¬ (0 ≤ f.seqnum.toInt ∧ f.seqnum.toInt < s.straps.seqLen) →
      exec (.srData f) s = .next { s with out := ⟨some .receiver, [], some .badField⟩ }) ∧
    (∀ q idx : Nat, f.checksum = ck s.straps f → f.seqnum.toInt = q → q < s.straps.seqLen →
      idx = seqDist s.straps.seqLen q s.rcv.base →
      (s.straps.windowLen ≤ idx →
        exec (.srData f) s = .next { s with
          rcv := { s.rcv with lastAck := mkAck s.straps q }
          out := ⟨some .receiver, [.txAck (mkAck s.straps q)], some .oldData⟩ }) ∧
      (idx < s.straps.windowLen → (∃ g, s.rcv.slots[idx]? = some (some g)) →
        exec (.srData f) s = .next { s with
          rcv := { s.rcv with lastAck := mkAck s.straps q }
          out := ⟨some .receiver, [.txAck (mkAck s.straps q)], some .dupData⟩ }) ∧
      (idx < s.straps.windowLen → s.rcv.slots[idx]? = some none → s.rcv.base < s.straps.seqLen →
        s.rcv.slots.length = s.straps.windowLen →
        ∀ (stored : List (Option Frame)) (j : Nat), stored = s.rcv.slots.set idx (some f) →
          j = (stored.takeWhile (·.isSome)).length →
          exec (.srData f) s = .next { s with
            rcv := { base := seqAdd s.straps.seqLen s.rcv.base j
                     lastAck := mkAck s.straps q
                     slots := stored.drop j ++ List.replicate j none }
            out := ⟨some .receiver,
              .txAck (mkAck s.straps q) ::
                ((stored.take j).filterMap id).map fun g => .deliver g.payload,
              some .ok⟩ }))

/-- `TCP.ACK` (R221, R223, R224, R225): a bad frame does nothing. On a valid ACK of `a`: new progress slides cumulatively, clears
the duplicate count and restarts the timer; an ACK of `base - 1` counts, and the third retransmits the head of a non-empty
window; anything else does nothing. -/
def Obligations.TcpAckResult : Prop :=
  ∀ (s : State) (f : Frame),
    (f.checksum ≠ ck s.straps f → exec (.tcpAck f) s = .next { s with out := ⟨some .sender, [], some .corrupt⟩ }) ∧
    (f.checksum = ck s.straps f → ¬ (0 ≤ f.acknum.toInt ∧ f.acknum.toInt < s.straps.seqLen) →
      exec (.tcpAck f) s = .next { s with out := ⟨some .sender, [], some .badField⟩ }) ∧
    (∀ a idx : Nat, f.checksum = ck s.straps f → f.acknum.toInt = a → a < s.straps.seqLen →
      idx = seqDist s.straps.seqLen a s.snd.base →
      (idx < s.snd.count →
        exec (.tcpAck f) s = .next { s with
          snd := { s.snd with
            base := seqAdd s.straps.seqLen s.snd.base (idx + 1), win := s.snd.win.drop (idx + 1), dup := 0 }
          ta := if idx + 1 < s.snd.count
            then timerStart (seqAdd s.straps.seqLen s.snd.base (idx + 1)) s.straps.timeoutMs (timerStop s.snd.base s.ta)
            else timerStop s.snd.base s.ta
          out := ⟨some .sender,
            .tmrStop s.snd.base ::
              (if idx + 1 < s.snd.count
                then [.tmrStart (seqAdd s.straps.seqLen s.snd.base (idx + 1)) s.straps.timeoutMs] else []),
            some .ok⟩ }) ∧
      (s.snd.count ≤ idx → idx = s.straps.seqLen - 1 → s.snd.dup + 1 ≠ 3 →
        exec (.tcpAck f) s = .next { s with
          snd := { s.snd with dup := s.snd.dup + 1 }, out := ⟨some .sender, [], some .dupAck⟩ }) ∧
      (s.snd.count ≤ idx → idx = s.straps.seqLen - 1 → s.snd.dup + 1 = 3 → ∀ e, s.snd.win.head? = some e →
        exec (.tcpAck f) s = .next { s with
          snd := { s.snd with dup := 0 }, out := ⟨some .sender, [.txData e.pkt], some .fastRetx⟩ }) ∧
      (s.snd.count ≤ idx → idx = s.straps.seqLen - 1 → s.snd.dup + 1 = 3 → s.snd.win = [] →
        exec (.tcpAck f) s = .next { s with
          snd := { s.snd with dup := 0 }, out := ⟨some .sender, [], some .dupAck⟩ }) ∧
      (s.snd.count ≤ idx → idx ≠ s.straps.seqLen - 1 →
        exec (.tcpAck f) s = .next { s with out := ⟨some .sender, [], some .staleAck⟩ }) ∧
      (s.snd.base < s.straps.seqLen → (idx = s.straps.seqLen - 1 ↔ a = seqPrev s.straps.seqLen s.snd.base)))

/-- `TCP.TIMEOUT` (R226): for the base of a non-empty window the timer is started again and the head only is transmitted again;
any other key does nothing. No sender state changes, `S.dup` included. -/
def Obligations.TcpTimeoutResult : Prop :=
  ∀ (s : State) (k : Word32),
    (s.snd.count = 0 ∨ k.toNat ≠ s.snd.base →
      exec (.tcpTimeout k) s = .next { s with out := ⟨some .sender, [], some .spuriousTimeout⟩ }) ∧
    (∀ e, s.snd.win.head? = some e → k.toNat = s.snd.base →
      exec (.tcpTimeout k) s = .next { s with
        ta := timerStart s.snd.base s.straps.timeoutMs s.ta
        out := ⟨some .sender, [.tmrStart s.snd.base s.straps.timeoutMs, .txData e.pkt], some .ok⟩ })

/-! ## Whole-machine rules over all instructions -/

/-- Every event runs to completion and ends with one disposition, one of those the opcode table lists for it, given by the
engine of its kind; straps and waiting inputs do not change; its actions all leave from that engine's port; a sender
event leaves the receiver alone and a receiver event the sender and the arbiter (`60_exceptions.md` sections 1 and 2,
`20_memory.md` section 4). -/
def Obligations.EveryEventCompletesWithinItsEngine : Prop :=
  ∀ (i : Instr) (s : State), ∃ t d, exec i s = .next t ∧
    t.out.engine = some i.kind.engine ∧ t.out.disp = some d ∧ d ∈ dispositionsOf i ∧
    t.straps = s.straps ∧ t.inputs = s.inputs ∧
    (∀ a ∈ t.out.actions, a.engine = i.kind.engine) ∧
    (i.kind.engine = .sender → t.rcv = s.rcv) ∧
    (i.kind.engine = .receiver → t.snd = s.snd ∧ t.ta = s.ta)

/-- The rows of the cause table with "none; none" (`60_exceptions.md` section 1): these dispositions leave no trace but
themselves. -/
def Obligations.RaisedDispositionLeavesNoTrace : Prop :=
  ∀ (i : Instr) (s t : State) (d : Disposition), exec i s = .next t → t.out.disp = some d →
    (d = .windowFull ∨ d = .spuriousTimeout ∨
      ((d = .corrupt ∨ d = .badField) ∧ (i.kind = .ack ∨ i.variant = .sr)) ∨
      (i.kind = .ack ∧ i.variant = .sr ∧ (d = .dupAck ∨ d = .staleAck)) ∨
      (i.kind = .ack ∧ i.variant = .tcp ∧ d = .staleAck)) →
    t = { s with out := ⟨some i.kind.engine, [], some d⟩ }

/-- R103: timer actions go to the arbiter, which changes as the actions say, in order; the duration is always `TIMEOUT_MS` and the
key always a sequence number, in states whose registers are in range. -/
def Obligations.TimerActionsCarryTimeoutAndReachTheArbiter : Prop :=
  ∀ (i : Instr) (s t : State), SenderShape s.straps s.snd → exec i s = .next t →
    t.ta = applyTimerActions t.out.actions s.ta ∧
    (∀ k d, Action.tmrStart k d ∈ t.out.actions → d = s.straps.timeoutMs ∧ k < s.straps.seqLen) ∧
    (∀ k, Action.tmrStop k ∈ t.out.actions → k < s.straps.seqLen)

/-- R77: a sender event and a receiver event commute: either order gives the same final states and the same action list and
disposition for each event. -/
def Obligations.SenderAndReceiverEventsCommute : Prop :=
  ∀ (s : State) (i j : Instr), i.kind.engine = .sender → j.kind.engine = .receiver →
    ∃ si sij sj sji, exec i s = .next si ∧ exec j si = .next sij ∧ exec j s = .next sj ∧ exec i sj = .next sji ∧
      sij = { sji with out := sij.out } ∧ si.out = sji.out ∧ sij.out = sj.out

/-- Stored frames are never changed (`10_state.md` section 2): the frames of the window after an event are those before it, some
dropped from the front, and after an accepted `SEND` the one transmitted. -/
def Obligations.StoredFramesNeverChange : Prop :=
  ∀ (i : Instr) (s t : State), exec i s = .next t →
    ∃ n, t.snd.win.map (·.pkt) =
      (s.snd.win.map (·.pkt)).drop n ++ (if i.kind = .send then t.out.dataFrames else [])

/-- What the engines never do (`43` to `48`, last rules): an event transmits only frames that are in the window; GBN and SR
transmit no data on an ACK; SR and TCP-like transmit at most one data frame an event; a receiver sends at most one ACK an
event, a GBN or TCP-like receiver its cached one, and an SR receiver none on a bad frame. -/
def Obligations.TransmissionsAreBounded : Prop :=
  ∀ (i : Instr) (s t : State), exec i s = .next t →
    (∀ f ∈ t.out.dataFrames, f ∈ t.snd.win.map (·.pkt)) ∧
    (i.kind = .ack → i.variant ≠ .tcp → t.out.dataFrames = []) ∧
    (i.variant ≠ .gbn → t.out.dataFrames.length ≤ 1) ∧
    t.out.ackFrames.length ≤ 1 ∧
    (i.kind ≠ .data → t.out.ackFrames = []) ∧
    (i.variant ≠ .sr → i.kind = .data → t.out.ackFrames = [t.rcv.lastAck]) ∧
    (∀ f, i = .srData f → dataOk s.straps f = false → t.out.ackFrames = [])

/-- SR independence (R151, R191): an accepted ACK of number `a` touches neither the timer of any other number nor the mark of any
entry with another number, and stops the timer of `a`. The window loses some front entries, each acknowledged before or
numbered `a`, and the base advances by as many; every entry that stays and has another number is as it was. (That an entry
numbered `a` that stays is marked is `SrAckResult`.) -/
def Obligations.SrAckTouchesOnlyItsOwnSlot : Prop :=
  ∀ (s t : State) (f : Frame), SenderShape s.straps s.snd → exec (.srAck f) s = .next t → t.out.disp = some .ok →
    ∃ a j : Nat, f.acknum.toInt = a ∧ a < s.straps.seqLen ∧ j ≤ s.snd.count ∧
      (∀ k, k ≠ a → running k t.ta = running k s.ta) ∧ running a t.ta = false ∧
      t.snd.base = seqAdd s.straps.seqLen s.snd.base j ∧ t.snd.count = s.snd.count - j ∧
      (∀ i e, s.snd.win[j + i]? = some e → seqAdd s.straps.seqLen s.snd.base (j + i) ≠ a → t.snd.win[i]? = some e) ∧
      (∀ i e, s.snd.win[i]? = some e → i < j → e.acked = true ∨ seqAdd s.straps.seqLen s.snd.base i = a)

/-- R224: `n` duplicate ACKs in a row, from a cleared count and a non-empty window, retransmit the head once for every three, and
leave the count at the remainder. -/
def Obligations.EveryThirdDuplicateRetransmitsTheHead : Prop :=
  ∀ (s : State) (f : Frame) (e : Entry) (n : Nat), s.straps.variant = Variant.tcp.code →
    SenderShape s.straps s.snd → s.snd.dup = 0 → s.snd.win.head? = some e → f.wf s.straps.payloadSize →
    f.checksum = ck s.straps f → f.acknum.toInt = seqPrev s.straps.seqLen s.snd.base →
    s.inputs = List.replicate n (.event (encode s.straps.payloadSize (.tcpAck f))) →
    (runReports n s).flatMap Report.dataFrames = List.replicate (n / 3) e.pkt ∧
    ∃ t, runState n s = some t ∧ t.snd = { s.snd with dup := n % 3 } ∧ t.ta = s.ta

/-- Two SR timeouts in either order give the same final state and the same actions each (`60_exceptions.md` section 4). -/
def Obligations.SrTimeoutsCommute : Prop :=
  ∀ (s : State) (k l : Word32), k ≠ l →
    ∃ sk skl sl slk, exec (.srTimeout k) s = .next sk ∧ exec (.srTimeout l) sk = .next skl ∧
      exec (.srTimeout l) s = .next sl ∧ exec (.srTimeout k) sl = .next slk ∧
      skl = { slk with out := skl.out } ∧ sk.out = slk.out ∧ skl.out = sl.out

/-! ## The timer arbiter -/

/-- R263: `TMR_START(k, d)` sets the running bit and the remaining time of `k` whether or not it was running, and touches no other
timer; an expiry that was pending is dropped, the timer counting anew from `d`. -/
def Obligations.TimerStartSetsOneTimer : Prop :=
  ∀ (ta : List TimerCell) (k : Nat) (d : Word32), k < ta.length →
    (timerStart k d ta)[k]? = some ⟨true, d⟩ ∧ running k (timerStart k d ta) = true ∧
    (d ≠ 0#32 → ∀ c, (timerStart k d ta)[k]? = some c → c.pending = false) ∧
    (∀ j, j ≠ k → (timerStart k d ta)[j]? = ta[j]?) ∧ (timerStart k d ta).length = ta.length

/-- R264: `TMR_STOP(k)` clears the running bit of `k` and touches no other timer; on a timer that is not running it is a no-op; a
pending expiry is cancelled. -/
def Obligations.TimerStopClearsOneTimer : Prop :=
  ∀ (ta : List TimerCell) (k : Nat),
    running k (timerStop k ta) = false ∧
    (∀ j, j ≠ k → (timerStop k ta)[j]? = ta[j]?) ∧ (timerStop k ta).length = ta.length ∧
    (running k ta = false → timerStop k ta = ta) ∧
    (∀ c, (timerStop k ta)[k]? = some c → c.pending = false)

/-- R265: the three equalities of timer commands. -/
def Obligations.TimerCommandsAreIdempotent : Prop :=
  ∀ (ta : List TimerCell) (k : Nat) (d : Word32),
    applyTimerActions [.tmrStop k, .tmrStop k] ta = applyTimerActions [.tmrStop k] ta ∧
    applyTimerActions [.tmrStart k d, .tmrStart k d] ta = applyTimerActions [.tmrStart k d] ta ∧
    applyTimerActions [.tmrStop k, .tmrStart k d] ta = applyTimerActions [.tmrStart k d] ta

/-- The expiry step (`60_exceptions.md` section 5): it needs a running timer, clears its bit, and in the same step the sender
serves `TIMEOUT(k)`; a timer that is not running cannot expire, which the model refuses by name (log entry 7). -/
def Obligations.ExpiryIsServedAsTheTimeout : Prop :=
  ∀ (s : State) (k : Word32) (rest : List Stimulus), s.inputs = .expire k :: rest →
    (running k.toNat s.ta = false → step s = .refused (.timerNotRunning k)) ∧
    (∀ v : Variant, running k.toNat s.ta = true → s.straps.variant = v.code →
      step s = exec (Instr.ofTimeout k v) { s with inputs := rest, ta := timerExpire k.toNat s.ta } ∧
      running k.toNat (timerExpire k.toNat s.ta) = false)

/-- An arbiter-made timeout is never spurious (`60_exceptions.md` section 5), in any state with the invariant of reachable
states. -/
def Obligations.ArbiterTimeoutIsNeverSpurious : Prop :=
  ∀ (s : State) (k : Word32) (rest : List Stimulus), s.Inv → s.inputs = .expire k :: rest → running k.toNat s.ta = true →
    ∃ t, step s = .next t ∧ t.out.disp = some .ok ∧ running k.toNat t.ta = true ∧ t.snd = s.snd

/-- No rule reads a remaining time (R29, R305): two blocks that differ only in remaining times take the same step, up to
remaining times. -/
def Obligations.RemainingTimesAreInvisible : Prop :=
  ∀ (s : State) (ta' : List TimerCell), ta'.map (·.run) = s.ta.map (·.run) →
    (∀ t, step s = .next t →
      ∃ t', step { s with ta := ta' } = .next t' ∧ t' = { t with ta := t'.ta } ∧ t'.ta.map (·.run) = t.ta.map (·.run)) ∧
    (∀ r, step s = .refused r → step { s with ta := ta' } = .refused r)

/-- A `tick` (`60_exceptions.md` section 5) counts the remaining time of every running timer down by one, not below zero, and
changes no running bit and nothing else; nothing is on the ports (log entries 4 and 8). -/
def Obligations.TickCountsRunningTimersDown : Prop :=
  ∀ (s : State) (rest : List Stimulus), s.inputs = .tick :: rest →
    ∃ t, step s = .next t ∧ t = { s with inputs := rest, ta := t.ta, out := ⟨none, [], none⟩ } ∧
      ∀ k : Nat, t.ta[k]? = s.ta[k]?.map fun c =>
        { c with remaining := BitVec.ofNat 32 (if c.run then c.remaining.toNat - 1 else c.remaining.toNat) }

/-! ## The step and reset -/

/-- A step runs the decoded instruction: when the next input is an event word that decodes to `i`, the step is `exec` of `i` on the
state without that input; the word of any well-formed instruction of the block's variant is such a word (R12, R118). -/
def Obligations.StepRunsTheDecodedInstruction : Prop :=
  ∀ (s : State) (w : List Byte) (rest : List Stimulus) (i : Instr), s.inputs = .event w :: rest →
    (decode s.straps.variant s.straps.payloadSize w = .ok i → step s = exec i { s with inputs := rest }) ∧
    (i.wf s.straps.payloadSize = true → i.variant.code = s.straps.variant → w = encode s.straps.payloadSize i →
      step s = exec i { s with inputs := rest })

/-- A reserved encoding (R108) changes nothing and emits nothing; its disposition is `REFUSED`. While `VARIANT = 3`, a word of a
legal kind is refused by the engine of that kind (R95, R110). That the run goes on is the model's choice (log entry 5), and
so is that the refusal of a reserved kind names no engine (log entry 14). -/
def Obligations.ReservedEncodingIsRefusedWithoutEffect : Prop :=
  ∀ (s : State) (k : Byte) (body : List Byte) (rest : List Stimulus), s.inputs = .event (k :: body) :: rest →
    body.length = 12 + s.straps.payloadSize →
    (3 < k.toNat → step s = .next { s with inputs := rest, out := ⟨none, [], some .refused⟩ }) ∧
    (s.straps.variant = 3#2 → ∀ d : EventKind, k = d.code →
      step s = .next { s with inputs := rest, out := ⟨some d.engine, [], some .refused⟩ })

/-- A step never faults (`00_scope.md` R17), and it gives no next state only for a word of the wrong length or an expiry of a
stopped timer, which no port and no arbiter produces (log entries 6 and 7; R266); with no input waiting it is idle, and
only the report of the last step goes (the model's choice, log entries 4 and 17). -/
def Obligations.StepStopsOnlyOnImpossibleInputs : Prop :=
  (∀ s : State, s.inputs = [] → step s = .next { s with out := ⟨none, [], none⟩ }) ∧
  ∀ s : State, (∃ t, step s = .next t) ∨
    (∃ w rest, s.inputs = .event w :: rest ∧ w.length ≠ s.straps.wordBytes ∧ step s = .refused .wordLength) ∨
    (∃ k rest, s.inputs = .expire k :: rest ∧ running k.toNat s.ta = false ∧ step s = .refused (.timerNotRunning k))

/-- Reset from any state (R55, R56): sender registers 0 and the window empty, receiver base 0, the cached ACK
`mk_ack(SEQ_LEN-1)` with its fields, all `W` slots blank; the first accepted `SEND` then sends number 0, and in GBN and
TCP-like starts the timer keyed 0. -/
def Obligations.ResetLeavesTheResetRegisters : Prop :=
  ∀ (s : State) (v : BitVec 2) (T : Word32) (rest : List Stimulus), s.inputs = .rst v T :: rest →
    ∃ t, step s = .next t ∧
      t.snd.nextseqnum = 0 ∧ t.snd.base = 0 ∧ t.snd.count = 0 ∧ t.snd.win = [] ∧ t.snd.dup = 0 ∧
      t.rcv.base = 0 ∧ t.rcv.lastAck = mkAck s.straps (s.straps.seqLen - 1) ∧
      t.rcv.lastAck.seqnum = 0#32 ∧ t.rcv.lastAck.acknum = BitVec.ofNat 32 (s.straps.seqLen - 1) ∧
      t.rcv.lastAck.payload = zeroBytes s.straps.payloadSize ∧ t.rcv.lastAck.checksum = ck s.straps t.rcv.lastAck ∧
      t.rcv.slots = List.replicate s.straps.windowLen none ∧
      ∀ m, (∃ u, exec (.gbnSend m) t = .next u ∧ u.out.actions = [.txData (mkData s.straps 0 m), .tmrStart 0 T]) ∧
        (∃ u, exec (.tcpSend m) t = .next u ∧ u.out.actions = [.txData (mkData s.straps 0 m), .tmrStart 0 T]) ∧
        (∃ u, exec (.srSend m) t = .next u ∧ u.out.dataFrames = [mkData s.straps 0 m])

/-- Reset stops every timer, samples the straps, emits nothing, gives no disposition, and leaves what the environment has yet to
do (`70_reset_and_hazards.md` section 1; which straps are sampled is log entry 13, the input list log entry 3). -/
def Obligations.ResetStopsTimersAndEmitsNothing : Prop :=
  ∀ (s : State) (v : BitVec 2) (T : Word32) (rest : List Stimulus), s.inputs = .rst v T :: rest →
    ∃ t, step s = .next t ∧ t.straps = { s.straps with variant := v, timeoutMs := T } ∧ t.inputs = rest ∧
      t.ta.length = s.straps.seqLen ∧ (∀ k, running k t.ta = false) ∧ (∀ c ∈ t.ta, c.pending = false) ∧
      t.out = ⟨none, [], none⟩

/-! ## Invariants and runs -/

/-- The reset state under any straps has the invariant of reachable states, and so has the model's own reset state
(`10_state.md` section 9; the straps of `State.reset` are the model's choice, log entry 1). -/
def Obligations.ResetStateHasTheInvariant : Prop :=
  (∀ c : Straps, (State.init c).Inv) ∧ State.reset.Inv

/-- Every step keeps the invariant of reachable states: window bound and shape, frame contents, acknowledged marks, timer sets,
duplicate count, cached ACK, receiver slots (`10_state.md` section 9). -/
def Obligations.StepKeepsTheInvariant : Prop :=
  ∀ s t : State, s.Inv → step s = .next t → t.Inv

/-- The window bound alone: every step from a sender window of legal shape, whatever the rest of the state, leaves one of legal
shape, so the window never holds more than `WINDOW_LEN` packets (`42_window_buffer.md` section 1). -/
def Obligations.StepKeepsTheSenderWindowBound : Prop :=
  ∀ s t : State, SenderShape s.straps s.snd → step s = .next t → SenderShape t.straps t.snd

/-- The registers fit the widths of R8 and R25: in states whose registers are in range, every register of the sender and the
receiver reads back from its register of `SEQ_W`, `CNT_W` or 2 bits, the cached ACK, the entries of the sender window and the
frames buffered by the receiver fill `FRAME_BITS`, every running timer's key fits `SEQ_W` bits, and no narrower `SEQ_W` above 1 would hold `SEQ_LEN-1`. -/
def Obligations.RegistersFitTheirWidths : Prop :=
  ∀ s : State, s.Inv →
    (s.snd.regs s.straps).nextseqnum.toNat = s.snd.nextseqnum ∧ (s.snd.regs s.straps).base.toNat = s.snd.base ∧
    (s.snd.regs s.straps).count.toNat = s.snd.count ∧ (s.snd.regs s.straps).dup.toNat = s.snd.dup ∧
    (s.rcv.baseReg s.straps).toNat = s.rcv.base ∧
    8 * s.rcv.lastAck.toBytes.length = s.straps.frameBits ∧
    (∀ e ∈ s.snd.win, 8 * e.pkt.toBytes.length = s.straps.frameBits) ∧
    (∀ i f, rwGet i s.rcv = some f → 8 * f.toBytes.length = s.straps.frameBits) ∧
    (∀ k, running k s.ta = true → (seqReg s.straps k).toNat = k) ∧
    2 ^ (s.straps.seqW - 1) ≤ s.straps.seqLen - 1

/-- Deliveries come in sequence-number order (`10_state.md` section 9): from any state with the invariant and no reset among its
inputs, the `i`-th payload delivered is that of a frame that arrived in a `DATA` event (or was already buffered), passed
`data_ok` and is numbered `R.base + i`; and the base advances by the number delivered. -/
def Obligations.RunDeliversInSequenceOrder : Prop :=
  ∀ (s : State) (n : Nat), s.Inv → (∀ x ∈ s.inputs, ∀ v T, x ≠ .rst v T) →
    ∃ fs : List Frame, (runReports n s).flatMap Report.delivered = fs.map (·.payload) ∧
      (∀ (i : Nat) (f : Frame), fs[i]? = some f →
        dataOk s.straps f = true ∧ f.seqnum.toInt = (seqAdd s.straps.seqLen s.rcv.base i : Int) ∧
        (.event (EventKind.data.code :: f.toBytes) ∈ s.inputs ∨ some f ∈ s.rcv.slots)) ∧
      ∀ t, runState n s = some t → t.rcv.base = seqAdd s.straps.seqLen s.rcv.base fs.length

/-- The end-to-end claim of R300, under (H-a), (H-b), (H-c) as `Closed` states them: the payloads delivered at B are the messages of
the accepted `SEND`s at A, in order, with no gaps and no duplicates, for every variant, every checksum function and any two
`TIMEOUT_MS`. The spec leaves the proof open. `FitsWire` is the model's (log entry 12), and so is the reading of (H-c) for a
cached ACK (log entry 21). -/
def Obligations.ClosedSystemDeliversTheMessagesInOrder : Prop :=
  ∀ (c : Straps) (timeoutB : Word32) (v : Variant) (y : ClosedSystem), c.FitsWire → c.variant = v.code →
    Closed c timeoutB v y → y.delivered = y.messages.take y.delivered.length

/-- Progress (R302): in a fair infinite run of the closed system every accepted message is delivered in the end, and a sender
whose application stops sending becomes, and stays, quiescent; for every variant. The reading of fairness (a) is log entry
20, that of (H-c) log entry 21, `FitsWire` log entry 12. -/
def Obligations.FairRunsDeliverEverythingAndBecomeQuiescent : Prop :=
  ∀ (c : Straps) (timeoutB : Word32) (v : Variant) (r : ClosedRun c timeoutB v), c.FitsWire → c.variant = v.code → r.Fair →
    (∀ n i : Nat, i < (r.sys n).messages.length →
      ∃ m, n ≤ m ∧ (r.sys m).delivered[i]? = (r.sys n).messages[i]?) ∧
    ((∃ n, ∀ m, n ≤ m → ∀ msg, r.move m ≠ .send msg) →
      ∃ n, ∀ m, n ≤ m → (r.sys m).a.Quiescent)
end

