-- ==== Sys2Proof/Laws/Closed.lean ====
section
/-! SUPPORT. What a move of the closed system touches, and infinite runs (`70_reset_and_hazards.md` R300, R302, R306). -/

namespace Sys2Proof.Machine

variable {c : Straps} {T : Word32} {v : Variant}

/-- Only A's events change A. -/
theorem ClosedStep.a_eq {y y' : ClosedSystem} {x : ClosedMove} (h : ClosedStep c v y x y') (hx : x.atSender = false) :
    y'.a = y.a := by
  cases h <;> first | rfl | cases hx

/-- Only B's events change B, the deliveries and the acknowledgments. -/
theorem ClosedStep.b_eq {y y' : ClosedSystem} {x : ClosedMove} (h : ClosedStep c v y x y') (hx : x.atReceiver = false) :
    y'.b = y.b ∧ y'.delivered = y.delivered ∧ y'.acks = y.acks := by
  cases h <;> first | exact ⟨rfl, rfl, rfl⟩ | cases hx

/-- Messages and deliveries are only ever appended. -/
theorem ClosedStep.grows {y y' : ClosedSystem} {x : ClosedMove} (h : ClosedStep c v y x y') :
    y.messages <+: y'.messages ∧ y.delivered <+: y'.delivered := by
  cases h <;> exact ⟨by first | exact List.prefix_append _ _ | exact List.prefix_rfl,
    by first | exact List.prefix_append _ _ | exact List.prefix_rfl⟩

/-- Every state of a run is a state of the closed system. -/
theorem ClosedRun.closed (r : ClosedRun c T v) (n : Nat) : Closed c T v (r.sys n) := by
  induction n with
  | zero => rw [r.starts]; exact .start
  | succ n ih => exact .step ih (r.steps n)

theorem InfinitelyOften.mono {p q : Nat → Prop} (h : InfinitelyOften p) (hpq : ∀ n, p n → q n) : InfinitelyOften q := fun n =>
  let ⟨m, hm, hp⟩ := h n
  ⟨m, hm, hpq m hp⟩

/-- What holds from some point on may be assumed at infinitely many positions. -/
theorem InfinitelyOften.and_eventually {p q : Nat → Prop} (h : InfinitelyOften p) {k : Nat} (hq : ∀ n, k ≤ n → q n) :
    InfinitelyOften fun n => p n ∧ q n := fun n =>
  let ⟨m, hm, hp⟩ := h (max n k)
  ⟨m, (le_max_left _ _).trans hm, hp, hq m ((le_max_right _ _).trans hm)⟩

end Sys2Proof.Machine
end

