-- ==== Sys2Proof/Laws/Frames.lean ====
section
/-! SUPPORT. Byte order, the frame builder and the frame validator (`30_encoding.md` R86, `41_checksum_frame.md` R131 to R136). -/

namespace Sys2Proof

/-- Reading back the four bytes of a word gives the word. -/
theorem be32_be32Bytes (v : Word32) :
    be32 (v.extractLsb' 24 8) (v.extractLsb' 16 8) (v.extractLsb' 8 8) (v.extractLsb' 0 8) = v := by
  unfold be32
  ext i hi
  simp only [BitVec.getElem_append, BitVec.getElem_extractLsb']
  repeat' split
  all_goals simp only [BitVec.getLsbD, BitVec.getElem_eq_testBit_toNat]; congr 1; omega

/-- The four bytes of a word built from four bytes are those bytes. -/
theorem be32Bytes_be32 (a b c d : Byte) : be32Bytes (be32 a b c d) = [a, b, c, d] := by
  unfold be32Bytes be32
  simp only [List.cons.injEq, and_true]
  refine ⟨?_, ?_, ?_, ?_⟩ <;>
  · ext i hi
    simp only [BitVec.getElem_extractLsb', BitVec.getLsbD_append]
    repeat' split
    all_goals first | omega | (simp only [BitVec.getLsbD, BitVec.getElem_eq_testBit_toNat]; congr 1; omega)

theorem be32Bytes_length (v : Word32) : (be32Bytes v).length = 4 := rfl

@[simp] theorem zeroBytes_length (n : Nat) : (zeroBytes n).length = n := by simp [zeroBytes]

@[simp] theorem Frame.toBytes_length (f : Frame) : f.toBytes.length = 12 + f.payload.length := by
  simp [Frame.toBytes, be32Bytes_length]; omega

end Sys2Proof

namespace Sys2Proof.Machine

@[simp] theorem mk_payload (c : Straps) (s a : Word32) (m : List Byte) : (mk c s a m).payload = m := rfl
@[simp] theorem mk_seqnum (c : Straps) (s a : Word32) (m : List Byte) : (mk c s a m).seqnum = s := rfl
@[simp] theorem mk_acknum (c : Straps) (s a : Word32) (m : List Byte) : (mk c s a m).acknum = a := rfl
@[simp] theorem mkData_payload (c : Straps) (s : Nat) (m : List Byte) : (mkData c s m).payload = m := rfl
@[simp] theorem mkData_seqnum (c : Straps) (s : Nat) (m : List Byte) : (mkData c s m).seqnum = BitVec.ofNat 32 s := rfl
@[simp] theorem mkAck_payload (c : Straps) (a : Nat) : (mkAck c a).payload = zeroBytes c.payloadSize := rfl
@[simp] theorem mkAck_acknum (c : Straps) (a : Nat) : (mkAck c a).acknum = BitVec.ofNat 32 a := rfl

/-- `CK-EXCL`: the checksum does not see the checksum field (R131). -/
theorem ck_congr (c : Straps) {f g : Frame} (hs : f.seqnum = g.seqnum) (ha : f.acknum = g.acknum) (hp : f.payload = g.payload) :
    ck c f = ck c g := by
  simp [ck, cin, hs, ha, hp]

theorem valid_iff (c : Straps) (f : Frame) : valid c f = true ↔ f.checksum = ck c f := by simp [valid]

theorem ck_arqCk32 {c : Straps} (h : c.checksum = .arqCk32) (f : Frame) : ck c f = arqCk32 (cin f) := by simp [ck, h, checksumOf]

/-- A built frame passes the validator (R134). -/
theorem mk_carries_own_checksum (c : Straps) (s a : Word32) (m : List Byte) : (mk c s a m).checksum = ck c (mk c s a m) := rfl

/-- What the validator answers for one field, once: `CORRUPT`, `BAD_FIELD`, or the number, which is in range (R136, R140). -/
theorem readField_cases (c : Straps) (f : Frame) (v : Word32) :
    (readField c f v = .error .corrupt ∧ f.checksum ≠ ck c f) ∨
    (readField c f v = .error .badField ∧ f.checksum = ck c f ∧ ¬ (0 ≤ v.toInt ∧ v.toInt < c.seqLen)) ∨
    (∃ a, readField c f v = .ok a ∧ f.checksum = ck c f ∧ v.toInt = a ∧ a < c.seqLen) := by
  unfold readField valid inRange
  by_cases hv : f.checksum = ck c f
  · by_cases hr : 0 ≤ v.toInt ∧ v.toInt < (c.seqLen : Int)
    · refine .inr (.inr ⟨v.toInt.toNat, ?_, hv, ?_, ?_⟩)
      · simp [hv, hr]
      · omega
      · omega
    · exact .inr (.inl ⟨by simp [hv, hr], hv, hr⟩)
  · exact .inl ⟨by simp [hv], hv⟩

/-- A number below `2^31` read back from its wire integer (R88). -/
theorem toInt_ofNat_of_lt {n : Nat} (h : n < 2 ^ 31) : (BitVec.ofNat 32 n).toInt = n := by
  rw [BitVec.toInt_eq_toNat_cond, BitVec.toNat_ofNat, Nat.mod_eq_of_lt (by omega)]
  rw [if_pos (by omega)]

end Sys2Proof.Machine
end

