-- ==== Sys2Proof/Laws/Decode.lean ====
section
/-! SUPPORT. The decoder on words cut into their parts, and what a word that decodes looks like (`30_encoding.md` R95 to R99, R105,
R118). -/

namespace Sys2Proof

@[simp] theorem Variant.ofCode_code (v : Variant) : Variant.ofCode v.code = some v := by cases v <;> rfl

@[simp] theorem EventKind.ofCode_code (k : EventKind) : EventKind.ofCode k.code = some k := by cases k <;> rfl

theorem Variant.code_of_ofCode {v : BitVec 2} {r : Variant} (h : Variant.ofCode v = some r) : v = r.code := by
  unfold Variant.ofCode at h
  split at h
  · cases h; assumption
  · split at h
    · cases h; assumption
    · split at h
      · cases h; assumption
      · cases h

theorem EventKind.code_of_ofCode {b : Byte} {k : EventKind} (h : EventKind.ofCode b = some k) : b = k.code := by
  unfold EventKind.ofCode at h
  split at h
  · cases h; assumption
  · split at h
    · cases h; assumption
    · split at h
      · cases h; assumption
      · split at h
        · cases h; assumption
        · cases h

/-- No variant has code 3 (R41). -/
theorem Variant.code_ne_three (v : Variant) : v.code ≠ 3#2 := by cases v <;> decide

/-- A word of legal kind, cut into its three integers and payload place, decodes by `Instr.ofBody`. -/
theorem decode_parts (v : Variant) (k : EventKind) (P : Nat) (i0 i1 i2 : Word32) (p : List Byte) (hp : p.length = P) :
    decode v.code P (k.code :: (be32Bytes i0 ++ be32Bytes i1 ++ be32Bytes i2 ++ p)) = .ok (.ofBody v k i0 i1 i2 p) := by
  simp only [be32Bytes, List.cons_append, List.nil_append, decode, hp, Variant.ofCode_code, EventKind.ofCode_code, if_true,
    be32_be32Bytes]

/-- The body of a `SEND` word in the parts `decode_parts` speaks of. -/
theorem sendBody_parts (m : List Byte) : zeroBytes 12 ++ m = be32Bytes 0 ++ be32Bytes 0 ++ be32Bytes 0 ++ m := rfl

/-- The body of a `TIMEOUT` word in the parts `decode_parts` speaks of. -/
theorem timeoutBody_parts (k : Word32) (P : Nat) :
    be32Bytes k ++ zeroBytes (8 + P) = be32Bytes k ++ be32Bytes 0 ++ be32Bytes 0 ++ zeroBytes P := by
  rw [zeroBytes, Nat.add_comm]
  simp only [List.append_assoc]
  congr 1

/-- Everything a word that decodes can be: a legal strap, a legal kind byte, three integers and a payload place of `P` bytes. -/
theorem decode_ok_cases {v : BitVec 2} {P : Nat} {w : List Byte} {i : Instr} (h : decode v P w = .ok i) :
    ∃ (r : Variant) (k : EventKind) (i0 i1 i2 : Word32) (p : List Byte), v = r.code ∧ p.length = P ∧
      w = k.code :: (be32Bytes i0 ++ be32Bytes i1 ++ be32Bytes i2 ++ p) ∧ i = .ofBody r k i0 i1 i2 p := by
  unfold decode at h
  split at h
  · split at h
    · split at h
      · cases h
      · cases h
      · next hp _ _ r kd hv hk =>
        cases h
        refine ⟨r, kd, _, _, _, _, Variant.code_of_ofCode hv, hp, ?_, rfl⟩
        simp [be32Bytes_be32, EventKind.code_of_ofCode hk]
    · cases h
  · cases h

/-- The word the arbiter makes is the `TIMEOUT` of its key under every variant (R98). -/
theorem decode_timeoutWord (v : Variant) (P : Nat) (k : Word32) : decode v.code P (timeoutWord P k) = .ok (.ofTimeout k v) := by
  unfold timeoutWord
  rw [timeoutBody_parts, decode_parts v .timeout P k 0 0 _ (zeroBytes_length P)]
  rfl

/-- The fields of an instruction cut from a body. -/
@[simp] theorem Instr.ofBody_variant (v : Variant) (k : EventKind) (i0 i1 i2 : Word32) (p : List Byte) :
    (Instr.ofBody v k i0 i1 i2 p).variant = v := by cases v <;> cases k <;> rfl

@[simp] theorem Instr.ofBody_kind (v : Variant) (k : EventKind) (i0 i1 i2 : Word32) (p : List Byte) :
    (Instr.ofBody v k i0 i1 i2 p).kind = k := by cases v <;> cases k <;> rfl

theorem Instr.ofBody_wf (v : Variant) (k : EventKind) (i0 i1 i2 : Word32) (p : List Byte) :
    (Instr.ofBody v k i0 i1 i2 p).wf p.length = true := by
  cases v <;> cases k <;>
    simp [Instr.ofBody, Instr.ofSend, Instr.ofAck, Instr.ofTimeout, Instr.ofData, Instr.wf, Frame.wf]

end Sys2Proof
end

