-- ==== Sys2Proof/Laws/SeqArith.lean ====
section
/-! SUPPORT. The sequence arithmetic by cases, without `mod` (`40_seq_arith.md` R121 to R125). -/

namespace Sys2Proof.Machine

/-- R121: `0` if `s = SEQ_LEN-1`, else `s+1`. -/
theorem seqInc_eq {L s : Nat} (hs : s < L) : seqInc L s = if s + 1 = L then 0 else s + 1 := by
  unfold seqInc
  split
  · next h => rw [h, Nat.mod_self]
  · exact Nat.mod_eq_of_lt (by omega)

/-- R123: `s + n` if that is below `SEQ_LEN`, else `s + n - SEQ_LEN`. -/
theorem seqAdd_eq {L s n : Nat} (hs : s < L) (hn : n ≤ L) : seqAdd L s n = if s + n < L then s + n else s + n - L := by
  unfold seqAdd
  split
  · next h => exact Nat.mod_eq_of_lt h
  · rw [Nat.mod_eq_sub_mod (by omega)]
    exact Nat.mod_eq_of_lt (by omega)

/-- R122: `a - b` if `a ≥ b`, else `a - b + SEQ_LEN`. -/
theorem seqDist_eq {L a b : Nat} (ha : a < L) (hb : b < L) : seqDist L a b = if b ≤ a then a - b else a + L - b := by
  unfold seqDist
  split
  · rw [Int.emod_eq_of_lt (by omega) (by omega)]
    omega
  · rw [← Int.add_emod_right, Int.emod_eq_of_lt (by omega) (by omega)]
    omega

theorem seqPrev_eq {L b : Nat} (hL : 1 < L) (hb : b < L) : seqPrev L b = if b = 0 then L - 1 else b - 1 := by
  unfold seqPrev
  rw [seqDist_eq hb hL]
  split <;> split <;> omega

theorem seqInc_lt {L : Nat} (hL : 0 < L) (s : Nat) : seqInc L s < L := Nat.mod_lt _ hL

theorem seqAdd_lt {L : Nat} (hL : 0 < L) (s n : Nat) : seqAdd L s n < L := Nat.mod_lt _ hL

theorem seqDist_lt {L : Nat} (hL : 0 < L) (a b : Nat) : seqDist L a b < L := by
  unfold seqDist
  have h1 := Int.emod_lt_of_pos ((a : Int) - b) (by exact_mod_cast hL : (0 : Int) < L)
  have h2 := Int.emod_nonneg ((a : Int) - b) (by omega : (L : Int) ≠ 0)
  omega

@[simp] theorem seqAdd_zero {L s : Nat} (hs : s < L) : seqAdd L s 0 = s := Nat.mod_eq_of_lt hs

theorem seqAdd_one (L s : Nat) : seqAdd L s 1 = seqInc L s := rfl

/-- `seq_add` is additive in its second operand (R123: "`seq_inc` applied `n` times"). -/
theorem seqAdd_seqAdd (L s m n : Nat) : seqAdd L (seqAdd L s m) n = seqAdd L s (m + n) := by
  simp [seqAdd, Nat.add_assoc]

theorem seqInc_seqAdd (L s n : Nat) : seqInc L (seqAdd L s n) = seqAdd L s (n + 1) := seqAdd_seqAdd L s n 1

theorem seqAdd_seqInc (L s n : Nat) : seqAdd L (seqInc L s) n = seqAdd L s (n + 1) := by
  rw [← seqAdd_one, seqAdd_seqAdd, Nat.add_comm]

/-- Distinct offsets below `SEQ_LEN` name distinct numbers. -/
theorem seqAdd_inj {L s m n : Nat} (hs : s < L) (hm : m < L) (hn : n < L) (h : seqAdd L s m = seqAdd L s n) : m = n := by
  rw [seqAdd_eq hs hm.le, seqAdd_eq hs hn.le] at h
  split at h <;> split at h <;> omega

end Sys2Proof.Machine
end

