-- ==== Sys2Proof/Laws/State.lean ====
section
/-! SUPPORT. One lemma for each field and each named update of State. -/

namespace Sys2Proof.Machine

@[simp] theorem State.withStraps_straps (c : Straps) (s : State) : (s.withStraps c).straps = c := rfl
@[simp] theorem State.withStraps_snd (c : Straps) (s : State) : (s.withStraps c).snd = s.snd := rfl
@[simp] theorem State.withStraps_rcv (c : Straps) (s : State) : (s.withStraps c).rcv = s.rcv := rfl
@[simp] theorem State.withStraps_ta (c : Straps) (s : State) : (s.withStraps c).ta = s.ta := rfl
@[simp] theorem State.withStraps_inputs (c : Straps) (s : State) : (s.withStraps c).inputs = s.inputs := rfl
@[simp] theorem State.withStraps_out (c : Straps) (s : State) : (s.withStraps c).out = s.out := rfl
@[simp] theorem State.withStraps_withStraps (c c' : Straps) (s : State) : (s.withStraps c).withStraps c' = s.withStraps c' := rfl
@[simp] theorem State.withStraps_self (s : State) : s.withStraps s.straps = s := rfl

@[simp] theorem State.withSnd_straps (r : Sender) (s : State) : (s.withSnd r).straps = s.straps := rfl
@[simp] theorem State.withSnd_snd (r : Sender) (s : State) : (s.withSnd r).snd = r := rfl
@[simp] theorem State.withSnd_rcv (r : Sender) (s : State) : (s.withSnd r).rcv = s.rcv := rfl
@[simp] theorem State.withSnd_ta (r : Sender) (s : State) : (s.withSnd r).ta = s.ta := rfl
@[simp] theorem State.withSnd_inputs (r : Sender) (s : State) : (s.withSnd r).inputs = s.inputs := rfl
@[simp] theorem State.withSnd_out (r : Sender) (s : State) : (s.withSnd r).out = s.out := rfl
@[simp] theorem State.withSnd_withSnd (r r' : Sender) (s : State) : (s.withSnd r).withSnd r' = s.withSnd r' := rfl
@[simp] theorem State.withSnd_self (s : State) : s.withSnd s.snd = s := rfl

@[simp] theorem State.withRcv_straps (r : Receiver) (s : State) : (s.withRcv r).straps = s.straps := rfl
@[simp] theorem State.withRcv_snd (r : Receiver) (s : State) : (s.withRcv r).snd = s.snd := rfl
@[simp] theorem State.withRcv_rcv (r : Receiver) (s : State) : (s.withRcv r).rcv = r := rfl
@[simp] theorem State.withRcv_ta (r : Receiver) (s : State) : (s.withRcv r).ta = s.ta := rfl
@[simp] theorem State.withRcv_inputs (r : Receiver) (s : State) : (s.withRcv r).inputs = s.inputs := rfl
@[simp] theorem State.withRcv_out (r : Receiver) (s : State) : (s.withRcv r).out = s.out := rfl
@[simp] theorem State.withRcv_withRcv (r r' : Receiver) (s : State) : (s.withRcv r).withRcv r' = s.withRcv r' := rfl
@[simp] theorem State.withRcv_self (s : State) : s.withRcv s.rcv = s := rfl

@[simp] theorem State.withTa_straps (t : List TimerCell) (s : State) : (s.withTa t).straps = s.straps := rfl
@[simp] theorem State.withTa_snd (t : List TimerCell) (s : State) : (s.withTa t).snd = s.snd := rfl
@[simp] theorem State.withTa_rcv (t : List TimerCell) (s : State) : (s.withTa t).rcv = s.rcv := rfl
@[simp] theorem State.withTa_ta (t : List TimerCell) (s : State) : (s.withTa t).ta = t := rfl
@[simp] theorem State.withTa_inputs (t : List TimerCell) (s : State) : (s.withTa t).inputs = s.inputs := rfl
@[simp] theorem State.withTa_out (t : List TimerCell) (s : State) : (s.withTa t).out = s.out := rfl
@[simp] theorem State.withTa_withTa (t t' : List TimerCell) (s : State) : (s.withTa t).withTa t' = s.withTa t' := rfl
@[simp] theorem State.withTa_self (s : State) : s.withTa s.ta = s := rfl

@[simp] theorem State.withInputs_straps (l : List Stimulus) (s : State) : (s.withInputs l).straps = s.straps := rfl
@[simp] theorem State.withInputs_snd (l : List Stimulus) (s : State) : (s.withInputs l).snd = s.snd := rfl
@[simp] theorem State.withInputs_rcv (l : List Stimulus) (s : State) : (s.withInputs l).rcv = s.rcv := rfl
@[simp] theorem State.withInputs_ta (l : List Stimulus) (s : State) : (s.withInputs l).ta = s.ta := rfl
@[simp] theorem State.withInputs_inputs (l : List Stimulus) (s : State) : (s.withInputs l).inputs = l := rfl
@[simp] theorem State.withInputs_out (l : List Stimulus) (s : State) : (s.withInputs l).out = s.out := rfl
@[simp] theorem State.withInputs_withInputs (l l' : List Stimulus) (s : State) : (s.withInputs l).withInputs l' = s.withInputs l' := rfl
@[simp] theorem State.withInputs_self (s : State) : s.withInputs s.inputs = s := rfl

@[simp] theorem State.withOut_straps (r : Report) (s : State) : (s.withOut r).straps = s.straps := rfl
@[simp] theorem State.withOut_snd (r : Report) (s : State) : (s.withOut r).snd = s.snd := rfl
@[simp] theorem State.withOut_rcv (r : Report) (s : State) : (s.withOut r).rcv = s.rcv := rfl
@[simp] theorem State.withOut_ta (r : Report) (s : State) : (s.withOut r).ta = s.ta := rfl
@[simp] theorem State.withOut_inputs (r : Report) (s : State) : (s.withOut r).inputs = s.inputs := rfl
@[simp] theorem State.withOut_out (r : Report) (s : State) : (s.withOut r).out = r := rfl
@[simp] theorem State.withOut_withOut (r r' : Report) (s : State) : (s.withOut r).withOut r' = s.withOut r' := rfl
@[simp] theorem State.withOut_self (s : State) : s.withOut s.out = s := rfl

end Sys2Proof.Machine
end

