-- ==== Sys2Proof/Laws/Timer.lean ====
section
/-! SUPPORT. What each arbiter operation does to the running bits (`60_exceptions.md` R263 to R266). -/

namespace Sys2Proof.Machine

@[simp] theorem timerStart_length (k : Nat) (d : Word32) (ta : List TimerCell) : (timerStart k d ta).length = ta.length := by
  simp [timerStart]

@[simp] theorem timerStop_length (k : Nat) (ta : List TimerCell) : (timerStop k ta).length = ta.length := by
  simp [timerStop]

@[simp] theorem timerExpire_length (k : Nat) (ta : List TimerCell) : (timerExpire k ta).length = ta.length := by
  simp [timerExpire]

@[simp] theorem timerTick_length (ta : List TimerCell) : (timerTick ta).length = ta.length := by
  simp [timerTick]

theorem running_timerStart (k j : Nat) (d : Word32) (ta : List TimerCell) :
    running j (timerStart k d ta) = if j = k then decide (k < ta.length) else running j ta := by
  unfold running timerStart
  rw [List.getElem?_set]
  by_cases h : k = j
  · subst h
    by_cases hk : k < ta.length <;> simp [hk]
  · simp [h, Ne.symm h]

theorem running_timerStop (k j : Nat) (ta : List TimerCell) :
    running j (timerStop k ta) = if j = k then false else running j ta := by
  unfold running timerStop
  rw [List.getElem?_modify]
  by_cases h : k = j
  · subst h
    cases ta[k]? <;> simp
  · cases ta[j]? <;> simp [h, Ne.symm h]

theorem running_timerExpire (k j : Nat) (ta : List TimerCell) :
    running j (timerExpire k ta) = if j = k then false else running j ta := running_timerStop k j ta

@[simp] theorem cellTick_run (c : TimerCell) : (cellTick c).run = c.run := by
  unfold cellTick
  split <;> rfl

@[simp] theorem running_timerTick (j : Nat) (ta : List TimerCell) : running j (timerTick ta) = running j ta := by
  unfold running timerTick
  cases h : ta[j]? <;> simp [h]

@[simp] theorem applyTimerActions_nil (ta : List TimerCell) : applyTimerActions [] ta = ta := rfl

@[simp] theorem applyTimerActions_cons (a : Action) (acts : List Action) (ta : List TimerCell) :
    applyTimerActions (a :: acts) ta = applyTimerActions acts (applyTimerAction ta a) := rfl

/-- The actions that are not for the arbiter leave it alone (R103). -/
theorem applyTimerActions_of_noTimer {acts : List Action} (h : ∀ a ∈ acts, ∀ ta, applyTimerAction ta a = ta)
    (ta : List TimerCell) : applyTimerActions acts ta = ta := by
  induction acts generalizing ta with
  | nil => rfl
  | cons a acts ih =>
    rw [applyTimerActions_cons, h a (by simp), ih fun b hb => h b (by simp [hb])]

@[simp] theorem applyTimerActions_txData (l : List Entry) (ta : List TimerCell) :
    applyTimerActions (l.map fun e => Action.txData e.pkt) ta = ta :=
  applyTimerActions_of_noTimer (by simp [applyTimerAction]) ta

@[simp] theorem applyTimerActions_length (acts : List Action) (ta : List TimerCell) :
    (applyTimerActions acts ta).length = ta.length := by
  induction acts generalizing ta with
  | nil => rfl
  | cons a acts ih => rw [applyTimerActions_cons, ih]; cases a <;> simp [applyTimerAction]

end Sys2Proof.Machine
end

