-- ==== Sys2Proof/Laws/Window.lean ====
section
/-! SUPPORT. What the window primitives do, field by field, and closed forms of the two loops (`42_window_buffer.md`). -/

namespace Sys2Proof.Machine

@[simp] theorem swPush_win (f : Frame) (r : Sender) : (swPush f r).win = r.win ++ [⟨f, false⟩] := rfl
@[simp] theorem swPush_base (f : Frame) (r : Sender) : (swPush f r).base = r.base := rfl
@[simp] theorem swPush_dup (f : Frame) (r : Sender) : (swPush f r).dup = r.dup := rfl
@[simp] theorem swPopFront_win (L n : Nat) (r : Sender) : (swPopFront L n r).win = r.win.drop n := rfl
@[simp] theorem swPopFront_base (L n : Nat) (r : Sender) : (swPopFront L n r).base = seqAdd L r.base n := rfl
@[simp] theorem swPopFront_next (L n : Nat) (r : Sender) : (swPopFront L n r).nextseqnum = r.nextseqnum := rfl
@[simp] theorem swPopFront_dup (L n : Nat) (r : Sender) : (swPopFront L n r).dup = r.dup := rfl
@[simp] theorem swSetAcked_base (i : Nat) (r : Sender) : (swSetAcked i r).base = r.base := rfl
@[simp] theorem swSetAcked_next (i : Nat) (r : Sender) : (swSetAcked i r).nextseqnum = r.nextseqnum := rfl
@[simp] theorem swSetAcked_dup (i : Nat) (r : Sender) : (swSetAcked i r).dup = r.dup := rfl
@[simp] theorem swSetAcked_win (i : Nat) (r : Sender) :
    (swSetAcked i r).win = r.win.modify i fun e => { e with acked := true } := rfl
@[simp] theorem swSlideAcked_next (L : Nat) (r : Sender) : (swSlideAcked L r).nextseqnum = r.nextseqnum := rfl
@[simp] theorem swSlideAcked_dup (L : Nat) (r : Sender) : (swSlideAcked L r).dup = r.dup := rfl
@[simp] theorem rwStore_base (i : Nat) (f : Frame) (r : Receiver) : (rwStore i f r).base = r.base := rfl
@[simp] theorem rwStore_slots (i : Nat) (f : Frame) (r : Receiver) : (rwStore i f r).slots = r.slots.set i (some f) := rfl
@[simp] theorem rwStore_lastAck (i : Nat) (f : Frame) (r : Receiver) : (rwStore i f r).lastAck = r.lastAck := rfl

/-- The acknowledged entries at the front of a window. -/
def ackedPrefix (l : List Entry) : List Entry := l.takeWhile (·.acked)

/-- The slide drops the acknowledged prefix and advances the base by its length (R152). -/
theorem slideLoop_eq {L : Nat} (b : Nat) (hb : b < L) (l : List Entry) :
    slideLoop L b l = (seqAdd L b (ackedPrefix l).length, l.drop (ackedPrefix l).length) := by
  induction l generalizing b with
  | nil => simp [slideLoop, ackedPrefix, seqAdd_zero hb]
  | cons e es ih =>
    unfold slideLoop
    by_cases h : e.acked
    · rw [if_pos h, ih _ (seqInc_lt (by omega) b), seqAdd_seqInc]
      simp [ackedPrefix, h]
    · simp [ackedPrefix, h, seqAdd_zero hb]

/-- The received slots at the front of a receive window. -/
def receivedPrefix (l : List (Option Frame)) : List (Option Frame) := l.takeWhile (·.isSome)

/-- The delivery loop keeps the cached ACK. -/
@[simp] theorem deliverLoop_lastAck (L n : Nat) (r : Receiver) : (deliverLoop L n r).2.lastAck = r.lastAck := by
  induction n generalizing r with
  | zero => rfl
  | succ n ih =>
    unfold deliverLoop
    split
    · rfl
    · exact ih _

/-- The delivery loop delivers the received prefix in order, shifts it out and appends as many blanks (R209), when it may run
as often as that (R159). -/
theorem deliverLoop_eq {L : Nat} (hL : 0 < L) (n : Nat) (r : Receiver) (hb : r.base < L)
    (hn : (receivedPrefix r.slots).length ≤ n) :
    deliverLoop L n r =
      ((receivedPrefix r.slots).filterMap fun o => o.map fun f => Action.deliver f.payload,
        { r with
          base := seqAdd L r.base (receivedPrefix r.slots).length
          slots := r.slots.drop (receivedPrefix r.slots).length ++ List.replicate (receivedPrefix r.slots).length none }) := by
  suffices key : ∀ (n : Nat) (l : List (Option Frame)) (k : Nat) (b : Nat) (a : Frame), b < L →
      (receivedPrefix l).length ≤ n →
      deliverLoop L n { base := b, lastAck := a, slots := l ++ List.replicate k none } =
        ((receivedPrefix l).filterMap fun o => o.map fun f => Action.deliver f.payload,
          { base := seqAdd L b (receivedPrefix l).length, lastAck := a,
            slots := l.drop (receivedPrefix l).length ++ List.replicate ((receivedPrefix l).length + k) none }) by
    have := key n r.slots 0 r.base r.lastAck hb hn
    simpa using this
  clear hn hb r n
  intro n
  induction n with
  | zero =>
    intro l k b a hb hn
    have h0 : (receivedPrefix l).length = 0 := by omega
    have h1 : receivedPrefix l = [] := List.length_eq_zero_iff.mp h0
    simp [deliverLoop, h1, seqAdd_zero hb]
  | succ n ih =>
    intro l k b a hb hn
    cases l with
    | nil =>
      cases k <;> simp [deliverLoop, rwGet, receivedPrefix, seqAdd_zero hb, List.replicate_succ]
    | cons o l =>
      cases o with
      | none => simp [deliverLoop, rwGet, receivedPrefix, seqAdd_zero hb]
      | some f =>
        have hr : receivedPrefix (some f :: l) = some f :: receivedPrefix l := by simp [receivedPrefix]
        rw [hr] at hn ⊢
        have hn' : (receivedPrefix l).length ≤ n := by simpa using hn
        have hs := ih l (k + 1) (seqInc L b) a (seqInc_lt hL b) hn'
        simp only [deliverLoop, rwGet, rwShift]
        simp only [List.cons_append, List.getElem?_cons_zero, Option.join, List.drop_succ_cons, List.drop_zero,
          List.append_assoc]
        rw [← List.replicate_succ']
        rw [hs, seqAdd_seqInc]
        simp [Nat.add_assoc, Nat.add_comm 1 k]

/-- What the loop emits is nothing for the arbiter. -/
theorem deliverLoop_noTimer (L n : Nat) (r : Receiver) :
    ∀ a ∈ (deliverLoop L n r).1, ∀ ta : List TimerCell, applyTimerAction ta a = ta := by
  induction n generalizing r with
  | zero => simp [deliverLoop]
  | succ n ih =>
    unfold deliverLoop
    split
    · simp
    · intro a ha
      rcases List.mem_cons.mp ha with rfl | h
      · intro ta; rfl
      · exact ih _ a h

end Sys2Proof.Machine
end

