-- ==== Sys2Proof/Laws/Ops.lean ====
section
/-! SUPPORT. One lemma for each shared operation that says everything it can do (`60_exceptions.md` R250, `43_gbn_sender.md` R166,
`44_gbn_receiver.md` R181, `47_tcp_sender.md` R224). -/

namespace Sys2Proof

theorem Straps.seqLen_pos (c : Straps) : 0 < c.seqLen := by
  have := c.windowLen_pos
  unfold Straps.seqLen
  omega

theorem Straps.one_lt_seqLen (c : Straps) : 1 < c.seqLen := by
  have := c.windowLen_pos
  unfold Straps.seqLen
  omega

theorem Straps.windowLen_lt_seqLen (c : Straps) : c.windowLen < c.seqLen := by
  have := c.windowLen_pos
  unfold Straps.seqLen
  omega

end Sys2Proof

namespace Sys2Proof.Machine

/-! ## The end of an event -/

/-- `done` always gives a next state, with the timer actions applied and the report set. -/
theorem done_eq (e : Engine) (d : Disposition) (acts : List Action) (s : State) :
    done e d acts s = .next { s with ta := applyTimerActions acts s.ta, out := ⟨some e, acts, some d⟩ } := rfl

/-- `raise` leaves no trace but the report (R250). -/
theorem raise_eq (e : Engine) (d : Disposition) (s : State) : raise e d s = .next { s with out := ⟨some e, [], some d⟩ } := rfl

/-- A word of a legal kind goes to the engine of that kind. -/
@[simp] theorem wordEngine_code (k : EventKind) (body : List Byte) : wordEngine (k.code :: body) = some k.engine := by
  cases k <;> rfl

/-- A word of a reserved kind goes to no engine. -/
theorem wordEngine_reserved {b : Byte} (body : List Byte) (h : EventKind.ofCode b = none) : wordEngine (b :: body) = none := by
  simp [wordEngine, h]

/-! ## The validator's three answers -/

theorem readField_corrupt {c : Straps} {f : Frame} {v : Word32} (h : f.checksum ≠ ck c f) :
    readField c f v = .error .corrupt := by
  simp [readField, valid, h]

theorem readField_badField {c : Straps} {f : Frame} {v : Word32} (h : f.checksum = ck c f)
    (hr : ¬ (0 ≤ v.toInt ∧ v.toInt < c.seqLen)) : readField c f v = .error .badField := by
  simp [readField, valid, h, inRange, hr]

theorem readField_ok {c : Straps} {f : Frame} {v : Word32} {a : Nat} (h : f.checksum = ck c f) (hv : v.toInt = a)
    (ha : a < c.seqLen) : readField c f v = .ok a := by
  simp [readField, valid, h, inRange, hv, ha]

/-! ## The shared operations -/

/-- Everything the `SEND` of the FIFO senders can do. -/
theorem sendFifo_cases (m : List Byte) (s : State) :
    (s.snd.count = s.straps.windowLen ∧ sendFifo m s = raise .sender .windowFull s) ∨
    (s.snd.count ≠ s.straps.windowLen ∧
      sendFifo m s = done .sender .ok
        (.txData (mkData s.straps s.snd.nextseqnum m) ::
          (if s.snd.base = s.snd.nextseqnum then [.tmrStart s.snd.base s.straps.timeoutMs] else []))
        (s.withSnd { s.snd with
          nextseqnum := seqInc s.straps.seqLen s.snd.nextseqnum
          win := s.snd.win ++ [⟨mkData s.straps s.snd.nextseqnum m, false⟩] })) := by
  unfold sendFifo
  by_cases h : s.snd.count = s.straps.windowLen
  · exact .inl ⟨h, by simp [swFull, h]⟩
  · refine .inr ⟨h, ?_⟩
    rw [if_neg (by simpa [swFull] using h)]
    rfl

/-- Everything the `DATA` of the in-order receivers can do. -/
theorem receiveInOrder_cases (f : Frame) (s : State) :
    (∃ d, d ≠ .ok ∧ receiveInOrder f s = done .receiver d [.txAck s.rcv.lastAck] s ∧
      ((d = .corrupt ∧ f.checksum ≠ ck s.straps f) ∨
       (d = .badField ∧ f.checksum = ck s.straps f ∧ ¬ (0 ≤ f.seqnum.toInt ∧ f.seqnum.toInt < s.straps.seqLen)) ∨
       (d = .outOfOrder ∧ f.checksum = ck s.straps f ∧ 0 ≤ f.seqnum.toInt ∧ f.seqnum.toInt < s.straps.seqLen ∧
         f.seqnum.toInt ≠ s.rcv.base))) ∨
    (f.checksum = ck s.straps f ∧ f.seqnum.toInt = s.rcv.base ∧ s.rcv.base < s.straps.seqLen ∧
      receiveInOrder f s = done .receiver .ok [.deliver f.payload, .txAck (mkAck s.straps s.rcv.base)]
        (s.withRcv { s.rcv with
          lastAck := mkAck s.straps s.rcv.base
          base := seqInc s.straps.seqLen s.rcv.base })) := by
  rcases readField_cases s.straps f f.seqnum with ⟨h, hv⟩ | ⟨h, hv, hr⟩ | ⟨q, h, hv, hq, hl⟩
  · exact .inl ⟨.corrupt, by decide, by simp only [receiveInOrder, readSeqnum, h], .inl ⟨rfl, hv⟩⟩
  · exact .inl ⟨.badField, by decide, by simp only [receiveInOrder, readSeqnum, h], .inr (.inl ⟨rfl, hv, hr⟩)⟩
  · by_cases hb : q = s.rcv.base
    · subst hb
      exact .inr ⟨hv, hq, hl, by simp only [receiveInOrder, readSeqnum, h, if_true]⟩
    · refine .inl ⟨.outOfOrder, by decide, by simp only [receiveInOrder, readSeqnum, h, hb, if_false], .inr (.inr ⟨rfl, hv, ?_⟩)⟩
      omega

/-- Everything a counted duplicate can do (R224). -/
theorem countDuplicate_cases (s : State) :
    (s.snd.dup + 1 ≠ Config.dupThresh ∧
      countDuplicate s = done .sender .dupAck [] (s.withSnd { s.snd with dup := s.snd.dup + 1 })) ∨
    (s.snd.dup + 1 = Config.dupThresh ∧ s.snd.win = [] ∧
      countDuplicate s = done .sender .dupAck [] (s.withSnd { s.snd with dup := 0 })) ∨
    (∃ e, s.snd.dup + 1 = Config.dupThresh ∧ s.snd.win.head? = some e ∧
      countDuplicate s = done .sender .fastRetx [.txData e.pkt] (s.withSnd { s.snd with dup := 0 })) := by
  unfold countDuplicate swGet
  by_cases h : s.snd.dup + 1 = Config.dupThresh
  · rw [if_pos h, ← List.head?_eq_getElem?]
    cases hw : s.snd.win.head? with
    | none => exact .inr (.inl ⟨h, by simpa using hw, rfl⟩)
    | some e => exact .inr (.inr ⟨e, h, rfl, rfl⟩)
  · rw [if_neg h]
    exact .inl ⟨h, rfl⟩

/-- `if S.count > 0: emit TMR_START` in its two cases. -/
theorem restartTimer_cases (T : Word32) (r : Sender) :
    (r.win = [] ∧ restartTimer T r = []) ∨ (r.win ≠ [] ∧ restartTimer T r = [.tmrStart r.base T]) := by
  unfold restartTimer swEmpty Sender.count
  by_cases h : r.win = []
  · exact .inl ⟨h, by simp [h]⟩
  · exact .inr ⟨h, by simp [h]⟩

/-! ## What one instruction can do -/

/-- Everything `GBN.ACK` can do. -/
theorem execGbnAck_cases (f : Frame) (s : State) :
    (∃ d, (d = .corrupt ∨ d = .badField) ∧ execGbnAck f s = raise .sender d s) ∨
    (∃ a n : Nat, f.acknum.toInt = a ∧ a < s.straps.seqLen ∧ n = seqDist s.straps.seqLen (seqInc s.straps.seqLen a) s.snd.base ∧
      ((n ≤ s.snd.count ∧
          execGbnAck f s = done .sender (if n = 0 then .dupAck else .ok)
            (.tmrStop s.snd.base :: restartTimer s.straps.timeoutMs (swPopFront s.straps.seqLen n s.snd))
            (s.withSnd (swPopFront s.straps.seqLen n s.snd))) ∨
        (s.snd.count < n ∧
          execGbnAck f s = done .sender .staleAck (.tmrStop s.snd.base :: restartTimer s.straps.timeoutMs s.snd) s))) := by
  rcases readField_cases s.straps f f.acknum with ⟨h, hv⟩ | ⟨h, hv, hr⟩ | ⟨a, h, hv, ha, hl⟩
  · exact .inl ⟨.corrupt, .inl rfl, by simp only [execGbnAck, readAcknum, h]⟩
  · exact .inl ⟨.badField, .inr rfl, by simp only [execGbnAck, readAcknum, h]⟩
  · refine .inr ⟨a, _, ha, hl, rfl, ?_⟩
    by_cases hn : seqDist s.straps.seqLen (seqInc s.straps.seqLen a) s.snd.base ≤ s.snd.count
    · exact .inl ⟨hn, by simp only [execGbnAck, readAcknum, h, hn, if_true]⟩
    · exact .inr ⟨by omega, by simp only [execGbnAck, readAcknum, h, hn, if_false, State.withSnd_self]⟩

/-- Everything `SR.ACK` can do. -/
theorem execSrAck_cases (f : Frame) (s : State) :
    (∃ d, d ≠ .ok ∧ execSrAck f s = raise .sender d s) ∨
    (∃ (a : Nat) (e : Entry), f.acknum.toInt = a ∧ a < s.straps.seqLen ∧
      s.snd.win[seqDist s.straps.seqLen a s.snd.base]? = some e ∧ e.acked = false ∧
      execSrAck f s = done .sender .ok [.tmrStop a]
        (s.withSnd (swSlideAcked s.straps.seqLen (swSetAcked (seqDist s.straps.seqLen a s.snd.base) s.snd)))) := by
  rcases readField_cases s.straps f f.acknum with ⟨h, hv⟩ | ⟨h, hv, hr⟩ | ⟨a, h, hv, ha, hl⟩
  · exact .inl ⟨.corrupt, by decide, by simp only [execSrAck, readAcknum, h]⟩
  · exact .inl ⟨.badField, by decide, by simp only [execSrAck, readAcknum, h]⟩
  · cases hw : s.snd.win[seqDist s.straps.seqLen a s.snd.base]? with
    | none => exact .inl ⟨.staleAck, by decide, by simp only [execSrAck, readAcknum, h, swGet, swIndexOf, hw]⟩
    | some e =>
      cases he : e.acked with
      | true => exact .inl ⟨.dupAck, by decide, by simp only [execSrAck, readAcknum, h, swGet, swIndexOf, hw, he, if_true]⟩
      | false =>
        refine .inr ⟨a, e, ha, hl, hw, he, ?_⟩
        simp only [execSrAck, readAcknum, h, swGet, swIndexOf, hw, he, Bool.false_eq_true, if_false]

/-- Everything `SR.TIMEOUT` can do. -/
theorem execSrTimeout_cases (k : Word32) (s : State) :
    execSrTimeout k s = raise .sender .spuriousTimeout s ∨
    (∃ e, k.toNat < s.straps.seqLen ∧ s.snd.win[seqDist s.straps.seqLen k.toNat s.snd.base]? = some e ∧ e.acked = false ∧
      execSrTimeout k s = done .sender .ok [.tmrStart k.toNat s.straps.timeoutMs, .txData e.pkt] s) := by
  unfold execSrTimeout swGet swIndexOf
  by_cases hk : s.straps.seqLen ≤ k.toNat
  · exact .inl (by rw [if_pos hk])
  · rw [if_neg hk]
    cases hw : s.snd.win[seqDist s.straps.seqLen k.toNat s.snd.base]? with
    | none => exact .inl rfl
    | some e =>
      cases he : e.acked with
      | true => exact .inl (by simp [he])
      | false => exact .inr ⟨e, by omega, rfl, he, by simp [he]⟩

/-- Everything `SR.DATA` can do. -/
theorem execSrData_cases (f : Frame) (s : State) :
    (∃ d, (d = .corrupt ∨ d = .badField) ∧ execSrData f s = raise .receiver d s) ∨
    (∃ q : Nat, f.checksum = ck s.straps f ∧ f.seqnum.toInt = q ∧ q < s.straps.seqLen ∧
      ((∃ d, (d = .dupData ∨ d = .oldData) ∧
          execSrData f s = done .receiver d [.txAck (mkAck s.straps q)]
            (s.withRcv { s.rcv with lastAck := mkAck s.straps q })) ∨
        (∃ i, i = seqDist s.straps.seqLen q s.rcv.base ∧ i < s.straps.windowLen ∧ rwGet i s.rcv = none ∧
          execSrData f s = done .receiver .ok
            (.txAck (mkAck s.straps q) ::
              (deliverLoop s.straps.seqLen s.straps.windowLen
                { rwStore i f s.rcv with lastAck := mkAck s.straps q }).1)
            (s.withRcv (deliverLoop s.straps.seqLen s.straps.windowLen
              { rwStore i f s.rcv with lastAck := mkAck s.straps q }).2)))) := by
  rcases readField_cases s.straps f f.seqnum with ⟨h, hv⟩ | ⟨h, hv, hr⟩ | ⟨q, h, hv, hq, hl⟩
  · exact .inl ⟨.corrupt, .inl rfl, by simp only [execSrData, readSeqnum, h]⟩
  · exact .inl ⟨.badField, .inr rfl, by simp only [execSrData, readSeqnum, h]⟩
  · refine .inr ⟨q, hv, hq, hl, ?_⟩
    by_cases hi : seqDist s.straps.seqLen q s.rcv.base < s.straps.windowLen
    · cases hg : rwGet (seqDist s.straps.seqLen q s.rcv.base) s.rcv with
      | none =>
        refine .inr ⟨_, rfl, hi, hg, ?_⟩
        simp only [execSrData, readSeqnum, h, rwIndexOf, rwReceived, hi, hg, decide_true, Option.isSome_none, Bool.not_false,
          Bool.and_true, if_true]
      | some g =>
        refine .inl ⟨.dupData, .inl rfl, ?_⟩
        simp only [execSrData, readSeqnum, h, rwIndexOf, rwReceived, hi, hg, decide_true, Option.isSome_some, Bool.not_true,
          Bool.and_false, Bool.false_eq_true, if_false, if_true]
    · refine .inl ⟨.oldData, .inr rfl, ?_⟩
      simp only [execSrData, readSeqnum, h, rwIndexOf, hi, decide_false, Bool.false_and, Bool.false_eq_true, if_false]

/-- Everything `TCP.ACK` can do. -/
theorem execTcpAck_cases (f : Frame) (s : State) :
    (∃ d, d ≠ .ok ∧ execTcpAck f s = raise .sender d s) ∨
    (∃ a i : Nat, f.acknum.toInt = a ∧ a < s.straps.seqLen ∧ i = seqDist s.straps.seqLen a s.snd.base ∧
      ((i < s.snd.count ∧
          execTcpAck f s = done .sender .ok
            (.tmrStop s.snd.base :: restartTimer s.straps.timeoutMs { swPopFront s.straps.seqLen (i + 1) s.snd with dup := 0 })
            (s.withSnd { swPopFront s.straps.seqLen (i + 1) s.snd with dup := 0 })) ∨
        (s.snd.count ≤ i ∧ i = s.straps.seqLen - 1 ∧ execTcpAck f s = countDuplicate s))) := by
  rcases readField_cases s.straps f f.acknum with ⟨h, hv⟩ | ⟨h, hv, hr⟩ | ⟨a, h, hv, ha, hl⟩
  · exact .inl ⟨.corrupt, by decide, by simp only [execTcpAck, readAcknum, h]⟩
  · exact .inl ⟨.badField, by decide, by simp only [execTcpAck, readAcknum, h]⟩
  · by_cases hi : seqDist s.straps.seqLen a s.snd.base < s.snd.count
    · exact .inr ⟨a, _, ha, hl, rfl, .inl ⟨hi, by simp only [execTcpAck, readAcknum, h, hi, if_true]⟩⟩
    · by_cases hp : seqDist s.straps.seqLen a s.snd.base = s.straps.seqLen - 1
      · exact .inr ⟨a, _, ha, hl, rfl, .inr ⟨by omega, hp, by simp only [execTcpAck, readAcknum, h, if_neg hi, if_pos hp]⟩⟩
      · exact .inl ⟨.staleAck, by decide, by simp only [execTcpAck, readAcknum, h, if_neg hi, if_neg hp]⟩

end Sys2Proof.Machine
end

