-- ==== Sys2Proof/Laws/PerInstr.lean ====
section
/-! SUPPORT. A claim about every instruction, one lemma a constructor: "one instruction length" (`30_encoding.md` R95), the kind
byte first, and the variant and kind of the decode key (R105). -/

namespace Sys2Proof.Laws.EncodedWord

open Sys2Proof.Machine

/-- The event word of a well-formed instruction is `EV_BYTES = 13 + P` bytes long and starts with the byte of its kind. -/
def Statement (i : Instr) : Prop :=
  ∀ P : Nat, i.wf P = true → (encode P i).length = 13 + P ∧ (encode P i).head? = some i.kind.code

theorem of_send {P : Nat} {m : List Byte} (h : m.length = P) : (zeroBytes 12 ++ m).length + 1 = 13 + P := by
  simp [h]
  omega

theorem of_frame {P : Nat} {f : Frame} (h : f.wf P) : f.toBytes.length + 1 = 13 + P := by
  rw [Frame.toBytes_length, h]
  omega

theorem of_key (P : Nat) (k : Word32) : (be32Bytes k ++ zeroBytes (8 + P)).length + 1 = 13 + P := by
  simp [be32Bytes_length]
  omega

theorem gbnSend (m : List Byte) : Statement (.gbnSend m) := fun _ h => ⟨of_send (by simpa [Instr.wf] using h), rfl⟩
theorem gbnAck (f : Frame) : Statement (.gbnAck f) := fun _ h => ⟨of_frame (by simpa [Instr.wf] using h), rfl⟩
theorem gbnTimeout (k : Word32) : Statement (.gbnTimeout k) := fun P _ => ⟨of_key P k, rfl⟩
theorem gbnData (f : Frame) : Statement (.gbnData f) := fun _ h => ⟨of_frame (by simpa [Instr.wf] using h), rfl⟩
theorem srSend (m : List Byte) : Statement (.srSend m) := fun _ h => ⟨of_send (by simpa [Instr.wf] using h), rfl⟩
theorem srAck (f : Frame) : Statement (.srAck f) := fun _ h => ⟨of_frame (by simpa [Instr.wf] using h), rfl⟩
theorem srTimeout (k : Word32) : Statement (.srTimeout k) := fun P _ => ⟨of_key P k, rfl⟩
theorem srData (f : Frame) : Statement (.srData f) := fun _ h => ⟨of_frame (by simpa [Instr.wf] using h), rfl⟩
theorem tcpSend (m : List Byte) : Statement (.tcpSend m) := fun _ h => ⟨of_send (by simpa [Instr.wf] using h), rfl⟩
theorem tcpAck (f : Frame) : Statement (.tcpAck f) := fun _ h => ⟨of_frame (by simpa [Instr.wf] using h), rfl⟩
theorem tcpTimeout (k : Word32) : Statement (.tcpTimeout k) := fun P _ => ⟨of_key P k, rfl⟩
theorem tcpData (f : Frame) : Statement (.tcpData f) := fun _ h => ⟨of_frame (by simpa [Instr.wf] using h), rfl⟩

end Sys2Proof.Laws.EncodedWord
end

