-- ==== Sys2Proof/Laws/Ring.lean ====
section
/-! SUPPORT. Registers at their widths (`00_scope.md` R8). -/

namespace Sys2Proof.Machine

/-- `SEQ_LEN` numbers fit `SEQ_W` bits. -/
theorem seqLen_le_two_pow_seqW (c : Straps) : c.seqLen ≤ 2 ^ c.seqW := by
  have h := c.windowLen_pos
  have h1 : ¬ c.seqLen ≤ 1 := by unfold Straps.seqLen; omega
  unfold Straps.seqW ceilLog2
  rw [if_neg h1]
  calc c.seqLen ≤ 2 ^ ((c.seqLen - 1).log2 + 1) := by
        have := Nat.lt_log2_self (n := c.seqLen - 1)
        omega
    _ ≤ _ := Nat.pow_le_pow_right (by omega) (le_max_right _ _)

/-- A sequence number reads back from its register. -/
theorem seqReg_toNat (c : Straps) {n : Nat} (h : n < c.seqLen) : (seqReg c n).toNat = n := by
  rw [seqReg, BitVec.toNat_ofNat, Nat.mod_eq_of_lt (h.trans_le (seqLen_le_two_pow_seqW c))]

@[simp] theorem ringReset_length (store : List StoreWord) : (ringReset store).length = store.length := by simp [ringReset]

/-- A word of a store after reset: the frame bits it had, and a cleared mark. -/
theorem ringReset_getElem? (store : List StoreWord) (j : Nat) :
    (ringReset store)[j]? = store[j]?.map fun w => { w with mark := false } := by simp [ringReset]

/-- What the magnitude comparator answers on numbers in range. -/
theorem seqLtReg_seqReg (c : Straps) {m n : Nat} (hm : m < c.seqLen) (hn : n < c.seqLen) :
    seqLtReg c (seqReg c m) (seqReg c n) = decide (m < n) := by
  simp [seqLtReg, BitVec.ult, seqReg_toNat c hm, seqReg_toNat c hn]

@[simp] theorem Sender.regs_base (c : Straps) (r : Sender) : (r.regs c).base = seqReg c r.base := rfl
@[simp] theorem Sender.regs_nextseqnum (c : Straps) (r : Sender) : (r.regs c).nextseqnum = seqReg c r.nextseqnum := rfl
@[simp] theorem Sender.regs_dup (c : Straps) (r : Sender) : (r.regs c).dup = BitVec.ofNat 2 r.dup := rfl

end Sys2Proof.Machine
end

