-- ==== Sys2Proof/Laws/Step.lean ====
section
/-! SUPPORT. Everything a step can do (`00_scope.md` R12, `30_encoding.md` R118, `60_exceptions.md` R266,
`70_reset_and_hazards.md` R280). -/

namespace Sys2Proof.Machine

/-- Everything serving a word can do. -/
theorem serve_cases (w : List Byte) (s : State) :
    (∃ i, decode s.straps.variant s.straps.payloadSize w = .ok i ∧ serve w s = exec i s) ∨
    (serve w s = .next (refuseWord w s)) ∨
    (decode s.straps.variant s.straps.payloadSize w = .error .wrongLength ∧ serve w s = .refused .wordLength) := by
  unfold serve
  cases h : decode s.straps.variant s.straps.payloadSize w with
  | ok i => exact .inl ⟨i, rfl, rfl⟩
  | error e =>
    cases e with
    | reservedVariant => exact .inr (.inl rfl)
    | reservedKind => exact .inr (.inl rfl)
    | wrongLength => exact .inr (.inr ⟨rfl, rfl⟩)

/-- Everything an expiry can do: refused, or the `TIMEOUT` of its key with the running bit cleared. -/
theorem expire_cases (k : Word32) (s : State) :
    (running k.toNat s.ta = false ∧ expire k s = .refused (.timerNotRunning k)) ∨
    (running k.toNat s.ta = true ∧
      expire k s = serve (timeoutWord s.straps.payloadSize k) (s.withTa (timerExpire k.toNat s.ta))) := by
  unfold expire
  cases h : running k.toNat s.ta with
  | false => exact .inl ⟨rfl, rfl⟩
  | true => exact .inr ⟨rfl, rfl⟩

/-- An expiry in a block of a legal variant runs that variant's `TIMEOUT`. -/
theorem expire_eq_exec {k : Word32} {s : State} {v : Variant} (hv : s.straps.variant = v.code)
    (hr : running k.toNat s.ta = true) :
    expire k s = exec (.ofTimeout k v) (s.withTa (timerExpire k.toNat s.ta)) := by
  rcases expire_cases k s with ⟨h, -⟩ | ⟨-, h⟩
  · rw [hr] at h; cases h
  · rw [h]
    simp only [serve, State.withTa_straps, hv, decode_timeoutWord]

/-- A step by the environment's next move. -/
theorem step_idle {s : State} (h : s.inputs = []) : step s = .next (idle s) := by simp only [step, h]

theorem step_event {s : State} {w : List Byte} {rest : List Stimulus} (h : s.inputs = .event w :: rest) :
    step s = serve w (s.withInputs rest) := by simp only [step, h]

theorem step_expire {s : State} {k : Word32} {rest : List Stimulus} (h : s.inputs = .expire k :: rest) :
    step s = expire k (s.withInputs rest) := by simp only [step, h]

theorem step_tick {s : State} {rest : List Stimulus} (h : s.inputs = .tick :: rest) :
    step s = .next (tick (s.withInputs rest)) := by simp only [step, h]

theorem step_rst {s : State} {v : BitVec 2} {t : Word32} {rest : List Stimulus} (h : s.inputs = .rst v t :: rest) :
    step s = .next (resetBlock v t (s.withInputs rest)) := by simp only [step, h]

/-- Everything a step that gives a next state did. -/
theorem step_cases {s t : State} (h : step s = .next t) :
    (s.inputs = [] ∧ t = idle s) ∨
    (∃ w rest, s.inputs = .event w :: rest ∧
      ((∃ i, decode s.straps.variant s.straps.payloadSize w = .ok i ∧ exec i (s.withInputs rest) = .next t) ∨
        t = refuseWord w (s.withInputs rest))) ∨
    (∃ k rest, s.inputs = .expire k :: rest ∧ running k.toNat s.ta = true ∧
      serve (timeoutWord s.straps.payloadSize k) ((s.withInputs rest).withTa (timerExpire k.toNat s.ta)) = .next t) ∨
    (∃ rest, s.inputs = .tick :: rest ∧ t = tick (s.withInputs rest)) ∨
    (∃ v T rest, s.inputs = .rst v T :: rest ∧ t = resetBlock v T (s.withInputs rest)) := by
  cases hs : s.inputs with
  | nil =>
    rw [step_idle hs] at h
    cases h
    exact .inl ⟨rfl, rfl⟩
  | cons x rest =>
    cases x with
    | event w =>
      rw [step_event hs] at h
      refine .inr (.inl ⟨w, rest, rfl, ?_⟩)
      rcases serve_cases w (s.withInputs rest) with ⟨i, hd, he⟩ | he | ⟨-, he⟩
      · exact .inl ⟨i, hd, by rw [← he, h]⟩
      · rw [he] at h; cases h; exact .inr rfl
      · rw [he] at h; cases h
    | expire k =>
      rw [step_expire hs] at h
      rcases expire_cases k (s.withInputs rest) with ⟨-, he⟩ | ⟨hr, he⟩
      · rw [he] at h; cases h
      · rw [he] at h; exact .inr (.inr (.inl ⟨k, rest, rfl, hr, h⟩))
    | tick =>
      rw [step_tick hs] at h
      cases h
      exact .inr (.inr (.inr (.inl ⟨rest, rfl, rfl⟩)))
    | rst v T =>
      rw [step_rst hs] at h
      cases h
      exact .inr (.inr (.inr (.inr ⟨v, T, rest, rfl, rfl⟩)))

end Sys2Proof.Machine
end

