-- ==== Sys2Proof/Machine/Trace.lean ====
section
/-! DEFINITION. The trace syntax: one event a line, and the pseudo-instructions with their expansions (`30_encoding.md` R115,
R116). -/

namespace Sys2Proof.Machine

/-- A line of a trace. -/
inductive TraceLine where
  /-- `SEND <message>`. -/
  | send (m : List Byte)
  /-- `ACK <frame>`. -/
  | ack (f : Frame)
  /-- `TIMEOUT <key>`. -/
  | timeout (k : Word32)
  /-- `DATA <frame>`. -/
  | data (f : Frame)
  /-- `ACK n`, the canonical ACK. -/
  | ackNum (n : Nat)
  /-- `DATA n "msg"`, the canonical data packet. -/
  | dataNum (n : Nat) (m : List Byte)
  /-- `ACK n !b<i>^<xx>`. -/
  | ackFlip (n i : Nat) (x : Byte)
  /-- `DATA n "msg" !b<i>^<xx>`. -/
  | dataFlip (n : Nat) (m : List Byte) (i : Nat) (x : Byte)
  /-- `RESET`. -/
  | reset
  /-- `SEND* "a","b",...`. -/
  | sendMany (ms : List (List Byte))
  deriving DecidableEq, Repr

/-- The event word of a kind with a given body. -/
def kindWord (k : EventKind) (body : List Byte) : Stimulus := .event (k.code :: body)

/-- Frame byte `i` XOR-ed with `x` (R116). -/
def flipByte (i : Nat) (x : Byte) (bytes : List Byte) : List Byte := bytes.modify i fun b => b ^^^ x

/-- What a line of a trace gives a block with straps `c` (R115, R116). -/
def TraceLine.expand (c : Straps) : TraceLine → List Stimulus
  | .send m => [kindWord .send (zeroBytes 12 ++ m)]
  | .ack f => [kindWord .ack f.toBytes]
  | .timeout k => [.event (timeoutWord c.payloadSize k)]
  | .data f => [kindWord .data f.toBytes]
  | .ackNum n => [kindWord .ack (mkAck c n).toBytes]
  | .dataNum n m => [kindWord .data (mkData c n m).toBytes]
  | .ackFlip n i x => [kindWord .ack (flipByte i x (mkAck c n).toBytes)]
  | .dataFlip n m i x => [kindWord .data (flipByte i x (mkData c n m).toBytes)]
  | .reset => [.rst c.variant c.timeoutMs]
  | .sendMany ms => ms.map fun m => kindWord .send (zeroBytes 12 ++ m)

end Sys2Proof.Machine
end

