-- ==== Sys2Proof/Tests/Slice0.lean ====
section
/-! SUPPORT. Tests of single steps and witnesses for the hypotheses of the obligations. Expected values are those the spec writes out:
vectors `V<n>` of `95_test_vectors.md` and the words of `30_encoding.md` R119, with `W = 4`, `P = 4`, `TIMEOUT_MS = 1000`. -/

namespace Sys2Proof.Tests

open Sys2Proof Sys2Proof.Machine

/-! ## Helpers -/

/-- The messages `"MSG0"` to `"MSG9"` of the spec's vectors. -/
def msg (n : Nat) : List Byte := [0x4D#8, 0x53#8, 0x47#8, BitVec.ofNat 8 (0x30 + n)]

/-- `data(n, "MSG<n>")`, unacknowledged. -/
def ent (n : Nat) : Entry := ⟨mkData Config.straps n (msg n), false⟩

/-- The same entry, acknowledged. -/
def acked (n : Nat) : Entry := ⟨mkData Config.straps n (msg n), true⟩

/-- Straps of the vectors under a variant. -/
def cfg (v : Variant) : Straps := { Config.straps with variant := v.code }

/-- Straps of the vectors with the reserved variant. -/
def reservedCfg : Straps := { Config.straps with variant := 3#2 }

/-- The arbiter with these timers running. -/
def timersOn (ks : List Nat) : List TimerCell := (List.range 8).map fun k => if k ∈ ks then ⟨true, 1000#32⟩ else TimerCell.init

/-- A block with a given sender and set of running timers. -/
def sending (v : Variant) (r : Sender) (ks : List Nat) : State := { State.init (cfg v) with snd := r, ta := timersOn ks }

/-- A block with a given receiver. -/
def receiving (v : Variant) (r : Receiver) : State := { State.init (cfg v) with rcv := r }

/-- The next state, where there is one. -/
def after (r : Result) : Option State :=
  match r with
  | .next t => some t
  | .fault _ => none
  | .refused _ => none

theorem next_of_after {r : Result} {t : State} (h : after r = some t) : r = .next t := by
  cases r <;> simp_all [after]

/-- The actions and the disposition of a step. -/
def outOf (r : Result) : Option Report := (after r).map (·.out)

/-- The running timers after a step. -/
def timersOf (r : Result) : Option (List Nat) := (after r).map fun t => (List.range 8).filter fun k => running k t.ta

/-- The state of V45: next 2, base 0, `win=[0,1]`, `timers={0}`. -/
def gbn45 : State := sending .gbn ⟨2, 0, [ent 0, ent 1], 0⟩ [0]

/-- The state after V52: `win=[0,1*,2]`, `timers={0,2}`. -/
def sr52 : State := sending .sr ⟨3, 0, [ent 0, acked 1, ent 2], 0⟩ [0, 2]

/-- The state of V61 with duplicate count `d`: next 3, base 1, `win=[1,2]`, `timers={1}`. -/
def tcp61 (d : Nat) : State := sending .tcp ⟨3, 1, [ent 1, ent 2], d⟩ [1]

/-- A full window from number 0. -/
def full (v : Variant) : State := sending v ⟨4, 0, [ent 0, ent 1, ent 2, ent 3], 0⟩ [0]

/-- `ack(n)` with frame byte 7 flipped in its low bit (R116). -/
def corruptAck (n : Nat) : Frame := { mkAck Config.straps n with acknum := BitVec.ofNat 32 n ^^^ 1#32 }

/-- V30: a valid frame numbered 8. -/
def v30 : Frame := ⟨8#32, 0xFFFFFFFF#32, 0x2D39051C#32, msg 0⟩

/-- V31: a valid frame numbered -1. -/
def v31 : Frame := ⟨0xFFFFFFFF#32, 0xFFFFFFFF#32, 0x66970910#32, msg 0⟩

/-! ## Well-formedness: an operand of the wrong width is refused (U18) -/

theorem test_wf_refuses_short_message :
    (Instr.gbnSend [1]).wf 4 = false ∧ (Instr.srSend [1]).wf 4 = false ∧ (Instr.tcpSend [1, 2, 3, 4, 5]).wf 4 = false := by decide

theorem test_wf_refuses_wide_frame :
    (Instr.gbnAck ⟨0#32, 0#32, 0#32, zeroBytes 5⟩).wf 4 = false ∧ (Instr.srAck ⟨0#32, 0#32, 0#32, zeroBytes 3⟩).wf 4 = false ∧ (Instr.tcpAck ⟨0#32, 0#32, 0#32, zeroBytes 5⟩).wf 4 = false ∧
      (Instr.gbnData (mkData Config.straps 0 [])).wf 4 = false ∧ (Instr.srData (mkData Config.straps 0 [])).wf 4 = false ∧
      (Instr.tcpData (mkData Config.straps 0 [])).wf 4 = false := by decide

theorem test_wf_accepts_port_width :
    (Instr.gbnSend (msg 0)).wf 4 = true ∧ (Instr.srAck (mkAck Config.straps 0)).wf 4 = true ∧ (Instr.tcpTimeout 9#32).wf 4 = true ∧
      (Instr.tcpData (mkData Config.straps 0 (msg 0))).wf 4 = true := by decide

/-! ## Decoding of words written out from R95 to R99, R105, R119 -/

/-- V89: bytes 1 to 12 of a `SEND` are ignored. -/
theorem test_decode_send :
    (decode 0#2 4 [0x00, 0xDE, 0xAD, 0xBE, 0xEF, 0x01, 0x23, 0x45, 0x67, 0x89, 0xAB, 0xCD, 0xEF, 0x4D, 0x53, 0x47, 0x30]).toOption
        = some (.gbnSend [0x4D, 0x53, 0x47, 0x30]) ∧
      (decode 1#2 4 [0x00, 0, 0, 0, 0, 0, 0, 0, 0, 0, 0, 0, 0, 0x4D, 0x53, 0x47, 0x30]).toOption
        = some (.srSend [0x4D, 0x53, 0x47, 0x30]) ∧
      (decode 2#2 4 [0x00, 0, 0, 0, 0, 0, 0, 0, 0, 0, 0, 0, 0, 0x4D, 0x53, 0x47, 0x30]).toOption
        = some (.tcpSend [0x4D, 0x53, 0x47, 0x30]) := by decide

/-- `ACK 1`: the frame of R119 after kind byte `01`. -/
theorem test_decode_ack :
    (decode 0#2 4 [0x01, 0, 0, 0, 0, 0, 0, 0, 1, 0x00, 0x19, 0x00, 0x02, 0, 0, 0, 0]).toOption
        = some (.gbnAck ⟨0#32, 1#32, 0x00190002#32, [0, 0, 0, 0]⟩) ∧
      (decode 1#2 4 [0x01, 0, 0, 0, 0, 0, 0, 0, 1, 0x00, 0x19, 0x00, 0x02, 0, 0, 0, 0]).toOption
        = some (.srAck ⟨0#32, 1#32, 0x00190002#32, [0, 0, 0, 0]⟩) ∧
      (decode 2#2 4 [0x01, 0, 0, 0, 0, 0, 0, 0, 1, 0x00, 0x19, 0x00, 0x02, 0, 0, 0, 0]).toOption
        = some (.tcpAck ⟨0#32, 1#32, 0x00190002#32, [0, 0, 0, 0]⟩) := by decide

/-- V90: bytes 5 on of a `TIMEOUT` are ignored. -/
theorem test_decode_timeout :
    (decode 0#2 4 [0x02, 0, 0, 0, 6, 0xFF, 0xFF, 0xFF, 0xFF, 0xFF, 0xFF, 0xFF, 0xFF, 0xFF, 0xFF, 0xFF, 0xFF]).toOption
        = some (.gbnTimeout 6#32) ∧
      (decode 1#2 4 [0x02, 0xFF, 0xFF, 0xFF, 0xFF, 0, 0, 0, 0, 0, 0, 0, 0, 0, 0, 0, 0]).toOption
        = some (.srTimeout 4294967295#32) ∧
      (decode 2#2 4 [0x02, 0x01, 0x02, 0x03, 0x04, 0, 0, 0, 0, 0, 0, 0, 0, 0, 0, 0, 0]).toOption
        = some (.tcpTimeout 0x01020304#32) := by decide

/-- `DATA 1 "MSG1"`: the frame of R119 after kind byte `03`. -/
theorem test_decode_data :
    (decode 0#2 4 [0x03, 0, 0, 0, 1, 0xFF, 0xFF, 0xFF, 0xFF, 0x2C, 0xDF, 0x05, 0x16, 0x4D, 0x53, 0x47, 0x31]).toOption
        = some (.gbnData ⟨1#32, 0xFFFFFFFF#32, 0x2CDF0516#32, [0x4D, 0x53, 0x47, 0x31]⟩) ∧
      (decode 1#2 4 [0x03, 0, 0, 0, 1, 0xFF, 0xFF, 0xFF, 0xFF, 0x2C, 0xDF, 0x05, 0x16, 0x4D, 0x53, 0x47, 0x31]).toOption
        = some (.srData ⟨1#32, 0xFFFFFFFF#32, 0x2CDF0516#32, [0x4D, 0x53, 0x47, 0x31]⟩) ∧
      (decode 2#2 4 [0x03, 0, 0, 0, 1, 0xFF, 0xFF, 0xFF, 0xFF, 0x2C, 0xDF, 0x05, 0x16, 0x4D, 0x53, 0x47, 0x31]).toOption
        = some (.tcpData ⟨1#32, 0xFFFFFFFF#32, 0x2CDF0516#32, [0x4D, 0x53, 0x47, 0x31]⟩) := by decide

/-- V86, V87, V88: the reserved encodings; a word of another length. -/
theorem test_decode_refuses_by_name :
    decode 0#2 4 (0x04#8 :: zeroBytes 16) = .error .reservedKind ∧ decode 2#2 4 (0xFF#8 :: zeroBytes 16) = .error .reservedKind ∧
      decode 3#2 4 (0x00#8 :: (zeroBytes 12 ++ msg 0)) = .error .reservedVariant ∧
      decode 0#2 4 (0x00#8 :: zeroBytes 15) = .error .wrongLength ∧ decode 0#2 4 [] = .error .wrongLength := by
  refine ⟨?_, ?_, ?_, ?_, ?_⟩ <;> rfl

/-- The table's keys, at both ends and past them (R105, R108). -/
theorem test_table_keys :
    decodeTableWord 16 0x000 = some (.gbnSend [0, 0, 0, 0]) ∧
      decodeTableWord 16 0x103 = some (.srData ⟨0#32, 0#32, 0#32, [0, 0, 0, 0]⟩) ∧
      decodeTableWord 16 0x202 = some (.tcpTimeout 0#32) ∧ decodeTableWord 16 0x004 = none ∧ decodeTableWord 16 0x300 = none ∧
      decodeTableWord 16 0x400 = none := by decide

/-! ## Checksum and frames (V20 to V34) -/

theorem test_checksum_vectors :
    ck Config.straps ⟨1#32, 0xFFFFFFFF#32, 0x12345678#32, [0x41, 0x42, 0x43, 0x44]⟩ = 0x2C870508#32 ∧
      mkData Config.straps 0 (msg 0) = ⟨0#32, 0xFFFFFFFF#32, 0x2CD10514#32, [0x4D, 0x53, 0x47, 0x30]⟩ ∧
      mkAck Config.straps 8 = ⟨0#32, 8#32, 0x00580009#32, [0, 0, 0, 0]⟩ ∧
      mk Config.straps 8#32 0xFFFFFFFF#32 (msg 0) = v30 ∧ mk Config.straps 0xFFFFFFFF#32 0xFFFFFFFF#32 (msg 0) = v31 ∧
      ck Config.straps ⟨0#32, 0#32, 0#32, [0, 0, 0, 0]⟩ = 0x00100001#32 := by decide

theorem test_validator_vectors :
    valid Config.straps ⟨0#32, 0xFFFFFFFF#32, 0x2CD10514#32, [0x4D, 0x53, 0x47, 0x30]⟩ = true ∧
      valid Config.straps ⟨0#32, 0xFFFFFFFF#32, 0x2CD10514#32, [0x4D, 0x52, 0x47, 0x30]⟩ = false ∧
      valid Config.straps ⟨0#32, 0xFFFFFFFF#32, 0x2C7A0507#32, [0x41, 0x42, 0x44, 0x43]⟩ = false ∧
      valid Config.straps ⟨0#32, 0#32, 0x00100000#32, [0, 0, 0, 0]⟩ = false ∧
      valid Config.straps v31 = true ∧ dataOk (cfg .gbn) v31 = false ∧ ackOk (cfg .gbn) (mkAck Config.straps 8) = false ∧
      ackOk (cfg .gbn) (mkData Config.straps 0 (msg 0)) = false ∧ dataOk (cfg .gbn) (mkAck Config.straps 3) = true := by decide

/-! ## Sequence arithmetic and windows (V5 to V41) -/

theorem test_seq_arith_vectors :
    seqDist 8 6 1 = 5 ∧ seqDist 8 0 7 = 1 ∧ seqAdd 8 6 3 = 1 ∧ inWindow 8 0 6 4 = true ∧ inWindow 8 2 6 4 = false ∧
      inWindow 8 6 6 0 = false ∧ seqPrev 8 0 = 7 ∧ seqDist 2 0 1 = 1 ∧ seqDist 6 1 4 = 3 ∧ seqInc 6 5 = 0 := by decide

/-- V38 and V41. -/
theorem test_window_vectors :
    swSlideAcked 8 ⟨4, 1, [acked 1, acked 2, ent 3], 0⟩ = ⟨4, 3, [ent 3], 0⟩ ∧
      (rwShift 8 (rwShift 8 (rwShift 8 ⟨0, mkAck Config.straps 7, [some (ent 0).pkt, some (ent 1).pkt, some (ent 2).pkt, none]⟩)))
        = ⟨3, mkAck Config.straps 7, [none, none, none, none]⟩ := by decide

/-! ## One step of each instruction (V42 to V88) -/

/-- V43. -/
theorem test_gbnSend_starts_timer :
    outOf (exec (.gbnSend (msg 0)) (State.init (cfg .gbn)))
        = some ⟨some .sender, [.txData (ent 0).pkt, .tmrStart 0 1000#32], some .ok⟩ ∧
      timersOf (exec (.gbnSend (msg 0)) (State.init (cfg .gbn))) = some [0] := by decide

/-- V44. -/
theorem test_gbnSend_full : outOf (exec (.gbnSend (msg 4)) (full .gbn)) = some ⟨some .sender, [], some .windowFull⟩ := by decide

/-- V45, V46. -/
theorem test_gbnAck_duplicate_and_stale :
    outOf (exec (.gbnAck (mkAck Config.straps 7)) gbn45) = some ⟨some .sender, [.tmrStop 0, .tmrStart 0 1000#32], some .dupAck⟩ ∧
      outOf (exec (.gbnAck (mkAck Config.straps 5)) gbn45) = some ⟨some .sender, [.tmrStop 0, .tmrStart 0 1000#32], some .staleAck⟩ := by
  decide

/-- V47. -/
theorem test_gbnAck_empties_window :
    outOf (exec (.gbnAck (mkAck Config.straps 1)) gbn45) = some ⟨some .sender, [.tmrStop 0], some .ok⟩ ∧
      (after (exec (.gbnAck (mkAck Config.straps 1)) gbn45)).map (·.snd) = some ⟨2, 2, [], 0⟩ ∧
      timersOf (exec (.gbnAck (mkAck Config.straps 1)) gbn45) = some [] := by decide

/-- V42: the whole window, in order, across the wrap. -/
theorem test_gbnTimeout_retransmits_all :
    outOf (exec (.gbnTimeout 6#32) (sending .gbn ⟨2, 6, [ent 6, ent 7, ent 0, ent 1], 0⟩ [6]))
      = some ⟨some .sender, [.tmrStop 6, .tmrStart 6 1000#32, .txData (ent 6).pkt, .txData (ent 7).pkt, .txData (ent 0).pkt,
          .txData (ent 1).pkt], some .ok⟩ := by decide

/-- V50, V51. -/
theorem test_gbnTimeout_spurious :
    outOf (exec (.gbnTimeout 2#32) (sending .gbn ⟨2, 2, [], 0⟩ [])) = some ⟨some .sender, [], some .spuriousTimeout⟩ ∧
      outOf (exec (.gbnTimeout 1#32) gbn45) = some ⟨some .sender, [], some .spuriousTimeout⟩ := by decide

/-- V75: the expected number, across the wrap. -/
theorem test_gbnData_in_order :
    outOf (exec (.gbnData (ent 7).pkt) (receiving .gbn ⟨7, mkAck Config.straps 6, [none, none, none, none]⟩))
        = some ⟨some .receiver, [.deliver (msg 7), .txAck (mkAck Config.straps 7)], some .ok⟩ ∧
      (after (exec (.gbnData (ent 7).pkt) (receiving .gbn ⟨7, mkAck Config.straps 6, [none, none, none, none]⟩))).map (·.rcv.base) = some 0 := by
  decide

/-- V72, V74. -/
theorem test_gbnData_rejected :
    outOf (exec (.gbnData (ent 1).pkt) (State.init (cfg .gbn))) = some ⟨some .receiver, [.txAck (mkAck Config.straps 7)], some .outOfOrder⟩ ∧
      outOf (exec (.gbnData v30) (State.init (cfg .gbn))) = some ⟨some .receiver, [.txAck (mkAck Config.straps 7)], some .badField⟩ := by decide

/-- V58: timer first, then the packet. -/
theorem test_srSend_timer_first :
    outOf (exec (.srSend (msg 0)) (State.init (cfg .sr)))
      = some ⟨some .sender, [.tmrStart 0 1000#32, .txData (ent 0).pkt], some .ok⟩ := by decide

/-- V52. -/
theorem test_srAck_marks_one :
    (after (exec (.srAck (mkAck Config.straps 1)) (sending .sr ⟨3, 0, [ent 0, ent 1, ent 2], 0⟩ [0, 1, 2]))).map (·.snd) = some sr52.snd ∧
      timersOf (exec (.srAck (mkAck Config.straps 1)) (sending .sr ⟨3, 0, [ent 0, ent 1, ent 2], 0⟩ [0, 1, 2])) = some [0, 2] := by decide

/-- V56, V57. -/
theorem test_srAck_outside :
    outOf (exec (.srAck (mkAck Config.straps 1)) sr52) = some ⟨some .sender, [], some .dupAck⟩ ∧
      outOf (exec (.srAck (mkAck Config.straps 3)) sr52) = some ⟨some .sender, [], some .staleAck⟩ := by decide

/-- V53. -/
theorem test_srTimeout_one_packet :
    outOf (exec (.srTimeout 0#32) sr52) = some ⟨some .sender, [.tmrStart 0 1000#32, .txData (ent 0).pkt], some .ok⟩ := by decide

/-- V54, V55. -/
theorem test_srTimeout_spurious :
    outOf (exec (.srTimeout 1#32) sr52) = some ⟨some .sender, [], some .spuriousTimeout⟩ ∧
      outOf (exec (.srTimeout 8#32) sr52) = some ⟨some .sender, [], some .spuriousTimeout⟩ ∧
      outOf (exec (.srTimeout 4294967295#32) sr52) = some ⟨some .sender, [], some .spuriousTimeout⟩ := by decide

/-- V85: the buffered prefix follows, across the wrap. -/
theorem test_srData_delivers_prefix :
    outOf (exec (.srData (ent 6).pkt) (receiving .sr ⟨6, mkAck Config.straps 0, [none, some (ent 7).pkt, some (ent 0).pkt, none]⟩))
        = some ⟨some .receiver, [.txAck (mkAck Config.straps 6), .deliver (msg 6), .deliver (msg 7), .deliver (msg 0)], some .ok⟩ ∧
      (after (exec (.srData (ent 6).pkt) (receiving .sr ⟨6, mkAck Config.straps 0, [none, some (ent 7).pkt, some (ent 0).pkt, none]⟩))).map (·.rcv)
        = some ⟨1, mkAck Config.straps 6, [none, none, none, none]⟩ := by decide

/-- V79, V80, V82. -/
theorem test_srData_buffers_or_only_acknowledges :
    (after (exec (.srData (ent 3).pkt) (State.init (cfg .sr)))).map (·.rcv.slots) = some [none, none, none, some (ent 3).pkt] ∧
      outOf (exec (.srData (ent 4).pkt) (State.init (cfg .sr))) = some ⟨some .receiver, [.txAck (mkAck Config.straps 4)], some .oldData⟩ ∧
      outOf (exec (.srData (ent 1).pkt) (receiving .sr ⟨0, mkAck Config.straps 1, [none, some (ent 1).pkt, none, none]⟩))
        = some ⟨some .receiver, [.txAck (mkAck Config.straps 1)], some .dupData⟩ := by decide

/-- V70. -/
theorem test_tcpSend_starts_timer :
    outOf (exec (.tcpSend (msg 0)) (State.init (cfg .tcp)))
      = some ⟨some .sender, [.txData (ent 0).pkt, .tmrStart 0 1000#32], some .ok⟩ := by decide

/-- V61, V68: the third duplicate, with and without a head. -/
theorem test_tcpAck_third_duplicate :
    outOf (exec (.tcpAck (mkAck Config.straps 0)) (tcp61 2)) = some ⟨some .sender, [.txData (ent 1).pkt], some .fastRetx⟩ ∧
      (after (exec (.tcpAck (mkAck Config.straps 0)) (tcp61 2))).map (·.snd.dup) = some 0 ∧
      outOf (exec (.tcpAck (mkAck Config.straps 7)) (sending .tcp ⟨0, 0, [], 2⟩ [])) = some ⟨some .sender, [], some .dupAck⟩ := by decide

/-- V65. -/
theorem test_tcpAck_progress :
    outOf (exec (.tcpAck (mkAck Config.straps 1)) (tcp61 2)) = some ⟨some .sender, [.tmrStop 1, .tmrStart 2 1000#32], some .ok⟩ ∧
      (after (exec (.tcpAck (mkAck Config.straps 1)) (tcp61 2))).map (·.snd) = some ⟨3, 2, [ent 2], 0⟩ ∧
      timersOf (exec (.tcpAck (mkAck Config.straps 1)) (tcp61 2)) = some [2] := by decide

/-- V66, V67. -/
theorem test_tcpTimeout_head_only :
    outOf (exec (.tcpTimeout 1#32) (tcp61 2)) = some ⟨some .sender, [.tmrStart 1 1000#32, .txData (ent 1).pkt], some .ok⟩ ∧
      outOf (exec (.tcpTimeout 2#32) (tcp61 2)) = some ⟨some .sender, [], some .spuriousTimeout⟩ := by decide

/-- V71, V76. -/
theorem test_tcpData_in_order_and_duplicate :
    outOf (exec (.tcpData (ent 0).pkt) (State.init (cfg .tcp)))
        = some ⟨some .receiver, [.deliver (msg 0), .txAck (mkAck Config.straps 0)], some .ok⟩ ∧
      outOf (exec (.tcpData (ent 0).pkt) (receiving .tcp ⟨1, mkAck Config.straps 0, [none, none, none, none]⟩))
        = some ⟨some .receiver, [.txAck (mkAck Config.straps 0)], some .outOfOrder⟩ := by decide

/-- V77: an ACK frame driven in as data. -/
theorem test_data_does_not_check_acknum :
    outOf (exec (.gbnData (mkAck Config.straps 3)) (State.init (cfg .gbn)))
      = some ⟨some .receiver, [.deliver [0, 0, 0, 0], .txAck (mkAck Config.straps 0)], some .ok⟩ := by decide

/-- V48, V49: nothing on a bad ACK. -/
theorem test_bad_ack :
    outOf (exec (.gbnAck (corruptAck 0)) gbn45) = some ⟨some .sender, [], some .corrupt⟩ ∧
      outOf (exec (.gbnAck ⟨0#32, 8#32, 0x00580009#32, [0, 0, 0, 0]⟩) gbn45) = some ⟨some .sender, [], some .badField⟩ := by decide

/-- R106, R277: codes at the ends of the table, and what the application sees. -/
theorem test_disposition_codes :
    dispCode .ok = 0#4 ∧ dispCode .windowFull = 1#4 ∧ dispCode .staleAck = 6#4 ∧ dispCode .refused = 11#4 ∧
      accepted ⟨some .sender, [], some .ok⟩ = true ∧ accepted ⟨some .sender, [], some .windowFull⟩ = false := by decide

/-! ## The step -/

/-- V86 through the step: refused, nothing changes. -/
theorem test_step_reserved_kind :
    after (step { gbn45 with inputs := [.event (0x04#8 :: zeroBytes 16)] })
      = some { gbn45 with out := ⟨none, [], some .refused⟩ } := by decide

/-- V88, and a `DATA` word, with `VARIANT = 3`: refused by the engine of the kind (R95, R110), nothing changes. -/
theorem test_step_reserved_variant :
    after (step { State.init reservedCfg with inputs := [.event (0x00#8 :: (zeroBytes 12 ++ msg 0))] })
        = some { State.init reservedCfg with out := ⟨some .sender, [], some .refused⟩ } ∧
      outOf (step { State.init reservedCfg with inputs := [.event (0x03#8 :: v31.toBytes)] })
        = some ⟨some .receiver, [], some .refused⟩ := by decide

/-- R266: an expiry clears the bit and is served at once as the timeout. -/
theorem test_step_expire :
    outOf (step { tcp61 0 with inputs := [.expire 1#32] })
        = some ⟨some .sender, [.tmrStart 1 1000#32, .txData (ent 1).pkt], some .ok⟩ ∧
      timersOf (step { tcp61 0 with inputs := [.expire 1#32] }) = some [1] := by decide

/-- R280, V43: reset, from a running state. -/
theorem test_step_reset :
    after (step { sr52 with inputs := [.rst 0#2 1000#32] }) = some State.reset := by decide

/-- R116: a trace line with a flipped byte is a corrupt frame (V48). -/
theorem test_trace_flip :
    TraceLine.expand Config.straps (.ackFlip 0 7 1#8)
      = [.event [0x01, 0, 0, 0, 0, 0, 0, 0, 1, 0x00, 0x10, 0x00, 0x01, 0, 0, 0, 0]] := by decide

/-- The presented key runs in the next step from reset. -/
theorem test_withFetchWord :
    outOf (step (State.reset.withFetchWord 16 0x100))
      = some ⟨some .sender, [.tmrStart 0 1000#32, .txData (mkData Config.straps 0 [0, 0, 0, 0])], some .ok⟩ := by decide

/-! ## Witnesses: concrete states and operands that meet the hypotheses of each obligation, one for each of its clauses -/

theorem witness_DecodeOfEncode :
    ∀ i ∈ [Instr.gbnSend (msg 0), .gbnAck (mkAck Config.straps 7), .gbnTimeout 0xFFFFFFFF#32, .gbnData v31, .srSend (msg 9), .srAck v30,
      .srTimeout 0#32, .srData (corruptAck 0), .tcpSend (msg 1), .tcpAck (mkAck Config.straps 0), .tcpTimeout 7#32, .tcpData v30],
      i.wf 4 = true := by decide

theorem witness_DecodedWord :
    decode 0#2 4 (0x00#8 :: (zeroBytes 12 ++ msg 0)) = .ok (.gbnSend (msg 0)) ∧
      decode 1#2 4 (0x01#8 :: (mkAck Config.straps 7).toBytes) = .ok (.srAck (mkAck Config.straps 7)) ∧
      decode 2#2 4 (timeoutWord 4 7#32) = .ok (.tcpTimeout 7#32) ∧
      decode 1#2 4 (0x03#8 :: v31.toBytes) = .ok (.srData v31) := by refine ⟨?_, ?_, ?_, ?_⟩ <;> rfl

theorem witness_PortWidthWord :
    (zeroBytes 16).length = 12 + 4 ∧ ((2#2 : BitVec 2) ≠ 3#2) ∧ 3 < (0x04#8 : Byte).toNat ∧ 3 < (0xFF#8 : Byte).toNat ∧
      (0x03#8 : Byte).toNat ≤ 3 ∧ (0x00#8 : Byte).toNat ≤ 3 := by decide

theorem witness_PresentedTableKey :
    (0x000 : Nat) = Variant.gbn.code.toNat * 256 + EventKind.send.code.toNat ∧
      (0x203 : Nat) = Variant.tcp.code.toNat * 256 + EventKind.data.code.toNat := by decide

/-- Also the hypothesis of `DefaultChecksumMeetsTheContract`. -/
theorem witness_PayloadByteChange :
    (cfg .gbn).checksum = .arqCk32 ∧ (ent 0).pkt.wf (cfg .gbn).payloadSize ∧ valid Config.straps (ent 0).pkt = true ∧ 0 < (ent 0).pkt.payload.length ∧ (ent 0).pkt.payload[0]? ≠ some 0#8 ∧
      3 < (ent 0).pkt.payload.length ∧ (ent 0).pkt.payload[3]? ≠ some 0xB0#8 := by decide

theorem witness_AnyByteChange :
    valid Config.straps (mkAck Config.straps 0) = true ∧ 7 < (mkAck Config.straps 0).toBytes.length ∧ (mkAck Config.straps 0).toBytes[7]? ≠ some 1#8 ∧
      Frame.ofBytes ((mkAck Config.straps 0).toBytes.set 7 1#8) = some ⟨0#32, 1#32, 0x00100001#32, [0, 0, 0, 0]⟩ ∧
      11 < (mkAck Config.straps 0).toBytes.length ∧ (mkAck Config.straps 0).toBytes[11]? ≠ some 0#8 ∧
      Frame.ofBytes ((mkAck Config.straps 0).toBytes.set 11 0#8) = some ⟨0#32, 0#32, 0x00100000#32, [0, 0, 0, 0]⟩ := by decide

theorem witness_ByteSwap :
    (0 : Nat) < 256 ∧ (0x42#8 :: zeroBytes 255 ++ [0x41#8])[0]? = some 0x42#8 ∧
      (0x42#8 :: zeroBytes 255 ++ [0x41#8])[256]? = some 0x41#8 ∧ (0x42#8 : Byte) ≠ 0x41#8 ∧
      (0x42#8 :: zeroBytes 255 ++ [0x41#8]).length ≤ 257 := by
  refine ⟨by decide, rfl, rfl, by decide, ?_⟩
  rw [List.length_append, List.length_cons, zeroBytes, List.length_replicate, List.length_singleton]

theorem witness_seq_ranges :
    (7 : Nat) < 8 ∧ (0 : Nat) < 8 ∧ (0 : Nat) ≠ 7 ∧ (4 : Nat) ≤ 8 ∧ (0 : Nat) < 1 ∧ (1 : Nat) < 2 * 1 ∧ (0 : Nat) < 2 * 1 := by decide

/-- The store of a sender at base 6 with `win=[6,7,0]`: words 2, 3, 0 used, word 1 dead. -/
def ring6 : List StoreWord := [⟨(ent 0).pkt, false⟩, ⟨(ent 5).pkt, true⟩, ⟨(ent 6).pkt, false⟩, ⟨(ent 7).pkt, true⟩]

theorem witness_SenderRing :
    SenderShape (cfg .sr) ⟨1, 6, [ent 6, acked 7, ent 0], 0⟩ ∧ ring6.length = (cfg .sr).windowLen ∧
      [ent 6, acked 7, ent 0] = ringWin 4 6 3 ring6 ∧ (3 : Nat) < 4 ∧ (3 : Nat) ≤ 3 ∧ (2 : Nat) < 3 :=
  ⟨⟨by decide, by decide, by decide⟩, by decide, by decide, by decide, by decide, by decide⟩

theorem witness_ReceiverRing :
    (6 : Nat) < (cfg .sr).seqLen ∧ ring6.length = (cfg .sr).windowLen ∧
      [none, some (ent 7).pkt, none, some (ent 5).pkt] = ringSlots 4 6 ring6 ∧ (3 : Nat) < (cfg .sr).windowLen := by decide

/-- Stores with marks set and frames in every word. -/
theorem witness_RingReset :
    ({ sr52 with inputs := [.rst 1#2 5#32] } : State).inputs = .rst 1#2 5#32 :: [] ∧ ring6.length = sr52.straps.windowLen := by
  decide

theorem witness_FifoSend :
    (full .gbn).snd.count = (full .gbn).straps.windowLen ∧ gbn45.snd.count ≠ gbn45.straps.windowLen ∧
      (State.init (cfg .tcp)).snd.count ≠ (cfg .tcp).windowLen ∧ SenderShape gbn45.straps gbn45.snd :=
  ⟨by decide, by decide, by decide, ⟨by decide, by decide, by decide⟩⟩

theorem witness_SrSend :
    (full .sr).snd.count = (full .sr).straps.windowLen ∧ sr52.snd.count ≠ sr52.straps.windowLen := by decide

/-- Bad frames for the first two clauses of the three `ACK` results. -/
theorem witness_BadAck :
    (corruptAck 0).checksum ≠ ck Config.straps (corruptAck 0) ∧ (mkAck Config.straps 8).checksum = ck Config.straps (mkAck Config.straps 8) ∧
      ¬ (0 ≤ (mkAck Config.straps 8).acknum.toInt ∧ (mkAck Config.straps 8).acknum.toInt < gbn45.straps.seqLen) ∧
      (ent 0).pkt.checksum = ck Config.straps (ent 0).pkt ∧
      ¬ (0 ≤ (ent 0).pkt.acknum.toInt ∧ (ent 0).pkt.acknum.toInt < gbn45.straps.seqLen) := by decide

/-- `n = 0`, `n = S.count` and `n > S.count` (V45, V47, V46). -/
theorem witness_GbnAck :
    (mkAck Config.straps 7).checksum = ck Config.straps (mkAck Config.straps 7) ∧ (mkAck Config.straps 7).acknum.toInt = (7 : Nat) ∧ 7 < gbn45.straps.seqLen ∧
      0 = seqDist gbn45.straps.seqLen (seqInc gbn45.straps.seqLen 7) gbn45.snd.base ∧ 0 ≤ gbn45.snd.count ∧
      (mkAck Config.straps 1).checksum = ck Config.straps (mkAck Config.straps 1) ∧ (mkAck Config.straps 1).acknum.toInt = (1 : Nat) ∧
      2 = seqDist gbn45.straps.seqLen (seqInc gbn45.straps.seqLen 1) gbn45.snd.base ∧ 2 ≤ gbn45.snd.count ∧
      (mkAck Config.straps 5).checksum = ck Config.straps (mkAck Config.straps 5) ∧ (mkAck Config.straps 5).acknum.toInt = (5 : Nat) ∧
      6 = seqDist gbn45.straps.seqLen (seqInc gbn45.straps.seqLen 5) gbn45.snd.base ∧ gbn45.snd.count < 6 ∧
      gbn45.snd.base < gbn45.straps.seqLen := by decide

theorem witness_GbnTimeout :
    (sending .gbn ⟨2, 2, [], 0⟩ []).snd.count = 0 ∧ (1#32 : Word32).toNat ≠ gbn45.snd.base ∧ gbn45.snd.count ≠ 0 ∧
      (0#32 : Word32).toNat = gbn45.snd.base := by decide

theorem witness_InOrderData :
    (corruptAck 0).checksum ≠ ck Config.straps (corruptAck 0) ∧ v30.checksum = ck Config.straps v30 ∧
      ¬ (0 ≤ v30.seqnum.toInt ∧ v30.seqnum.toInt < (cfg .gbn).seqLen) ∧ v31.checksum = ck Config.straps v31 ∧
      ¬ (0 ≤ v31.seqnum.toInt ∧ v31.seqnum.toInt < (cfg .gbn).seqLen) ∧
      (ent 7).pkt.checksum = ck Config.straps (ent 7).pkt ∧ 0 ≤ (ent 7).pkt.seqnum.toInt ∧ (ent 7).pkt.seqnum.toInt < (cfg .gbn).seqLen ∧
      (ent 7).pkt.seqnum.toInt ≠ (State.init (cfg .gbn)).rcv.base ∧ (ent 0).pkt.checksum = ck Config.straps (ent 0).pkt ∧
      (ent 0).pkt.seqnum.toInt = (State.init (cfg .gbn)).rcv.base ∧ (State.init (cfg .gbn)).rcv.base < (cfg .gbn).seqLen := by
  decide

/-- No entry (V57), acknowledged entry (V56), unacknowledged front entry whose slide takes two. -/
theorem witness_SrAck :
    (mkAck Config.straps 3).checksum = ck Config.straps (mkAck Config.straps 3) ∧ (mkAck Config.straps 3).acknum.toInt = (3 : Nat) ∧ 3 < sr52.straps.seqLen ∧
      3 = seqDist sr52.straps.seqLen 3 sr52.snd.base ∧ sr52.snd.count ≤ 3 ∧
      (mkAck Config.straps 1).checksum = ck Config.straps (mkAck Config.straps 1) ∧ (mkAck Config.straps 1).acknum.toInt = (1 : Nat) ∧
      1 = seqDist sr52.straps.seqLen 1 sr52.snd.base ∧ sr52.snd.win[1]? = some (acked 1) ∧ (acked 1).acked = true ∧
      (mkAck Config.straps 0).checksum = ck Config.straps (mkAck Config.straps 0) ∧ (mkAck Config.straps 0).acknum.toInt = (0 : Nat) ∧
      0 = seqDist sr52.straps.seqLen 0 sr52.snd.base ∧ sr52.snd.win[0]? = some (ent 0) ∧ (ent 0).acked = false ∧
      sr52.snd.base < sr52.straps.seqLen ∧ 2 = ((sr52.snd.win.set 0 ⟨(ent 0).pkt, true⟩).takeWhile (·.acked)).length := by decide

theorem witness_SrTimeout :
    sr52.straps.seqLen ≤ (8#32 : Word32).toNat ∧ 3 = seqDist sr52.straps.seqLen (3#32 : Word32).toNat sr52.snd.base ∧
      sr52.snd.count ≤ 3 ∧ 1 = seqDist sr52.straps.seqLen (1#32 : Word32).toNat sr52.snd.base ∧
      sr52.snd.win[1]? = some (acked 1) ∧ (2#32 : Word32).toNat < sr52.straps.seqLen ∧
      2 = seqDist sr52.straps.seqLen (2#32 : Word32).toNat sr52.snd.base ∧ sr52.snd.win[2]? = some (ent 2) ∧
      (ent 2).acked = false := by decide

/-- The receiver of V85. -/
def sr85 : State := receiving .sr ⟨6, mkAck Config.straps 0, [none, some (ent 7).pkt, some (ent 0).pkt, none]⟩

/-- Bad frames, `idx = W` (V80), buffered already (V82's case), and the front slot with a received prefix behind it (V85). -/
theorem witness_SrData :
    (corruptAck 0).checksum ≠ ck Config.straps (corruptAck 0) ∧ v30.checksum = ck Config.straps v30 ∧
      ¬ (0 ≤ v30.seqnum.toInt ∧ v30.seqnum.toInt < sr85.straps.seqLen) ∧
      (ent 2).pkt.checksum = ck Config.straps (ent 2).pkt ∧ (ent 2).pkt.seqnum.toInt = (2 : Nat) ∧ 2 < sr85.straps.seqLen ∧
      4 = seqDist sr85.straps.seqLen 2 sr85.rcv.base ∧ sr85.straps.windowLen ≤ 4 ∧
      (ent 7).pkt.checksum = ck Config.straps (ent 7).pkt ∧ (ent 7).pkt.seqnum.toInt = (7 : Nat) ∧
      1 = seqDist sr85.straps.seqLen 7 sr85.rcv.base ∧ 1 < sr85.straps.windowLen ∧
      sr85.rcv.slots[1]? = some (some (ent 7).pkt) ∧
      (ent 6).pkt.checksum = ck Config.straps (ent 6).pkt ∧ (ent 6).pkt.seqnum.toInt = (6 : Nat) ∧
      0 = seqDist sr85.straps.seqLen 6 sr85.rcv.base ∧ sr85.rcv.slots[0]? = some none ∧
      sr85.rcv.base < sr85.straps.seqLen ∧ sr85.rcv.slots.length = sr85.straps.windowLen ∧
      3 = ((sr85.rcv.slots.set 0 (some (ent 6).pkt)).takeWhile (·.isSome)).length ∧
      (ent 1).pkt.seqnum.toInt = (1 : Nat) ∧ 3 = seqDist sr85.straps.seqLen 1 sr85.rcv.base ∧
      sr85.rcv.slots[3]? = some none := by decide

/-- Last entry of the window, duplicates below and at the threshold with and without a head, and stale (V64, V62, V61, V68,
V63). -/
theorem witness_TcpAck :
    (mkAck Config.straps 2).checksum = ck Config.straps (mkAck Config.straps 2) ∧ (mkAck Config.straps 2).acknum.toInt = (2 : Nat) ∧ 2 < (tcp61 2).straps.seqLen ∧
      1 = seqDist (tcp61 2).straps.seqLen 2 (tcp61 2).snd.base ∧ 1 < (tcp61 2).snd.count ∧
      (mkAck Config.straps 0).checksum = ck Config.straps (mkAck Config.straps 0) ∧ (mkAck Config.straps 0).acknum.toInt = (0 : Nat) ∧
      7 = seqDist (tcp61 2).straps.seqLen 0 (tcp61 2).snd.base ∧ (tcp61 2).snd.count ≤ 7 ∧ 7 = (tcp61 2).straps.seqLen - 1 ∧
      (tcp61 1).snd.dup + 1 ≠ 3 ∧ (tcp61 2).snd.dup + 1 = 3 ∧ (tcp61 2).snd.win.head? = some (ent 1) ∧
      (sending .tcp ⟨1, 1, [], 2⟩ []).snd.win = [] ∧ (sending .tcp ⟨1, 1, [], 2⟩ []).snd.dup + 1 = 3 ∧
      (mkAck Config.straps 7).checksum = ck Config.straps (mkAck Config.straps 7) ∧ (mkAck Config.straps 7).acknum.toInt = (7 : Nat) ∧
      6 = seqDist (tcp61 2).straps.seqLen 7 (tcp61 2).snd.base ∧ (tcp61 2).snd.count ≤ 6 ∧ 6 ≠ (tcp61 2).straps.seqLen - 1 ∧
      (tcp61 2).snd.base < (tcp61 2).straps.seqLen := by decide

theorem witness_TcpTimeout :
    (State.init (cfg .tcp)).snd.count = 0 ∧ (2#32 : Word32).toNat ≠ (tcp61 2).snd.base ∧
      (tcp61 2).snd.win.head? = some (ent 1) ∧ (1#32 : Word32).toNat = (tcp61 2).snd.base := by decide

/-- Each disposition that leaves no trace, on one instruction that ends with it. -/
theorem witness_RaisedDisposition :
    (∃ t, exec (.gbnSend (msg 4)) (full .gbn) = .next t ∧ t.out.disp = some .windowFull) ∧
      (∃ t, exec (.tcpTimeout 2#32) (tcp61 2) = .next t ∧ t.out.disp = some .spuriousTimeout) ∧
      (∃ t, exec (.srData (corruptAck 0)) sr85 = .next t ∧ t.out.disp = some .corrupt) ∧
      (∃ t, exec (.gbnAck (mkAck Config.straps 8)) gbn45 = .next t ∧ t.out.disp = some .badField) ∧
      (∃ t, exec (.srAck (mkAck Config.straps 1)) sr52 = .next t ∧ t.out.disp = some .dupAck) ∧
      (∃ t, exec (.srAck (mkAck Config.straps 3)) sr52 = .next t ∧ t.out.disp = some .staleAck) ∧
      (∃ t, exec (.tcpAck (mkAck Config.straps 7)) (tcp61 2) = .next t ∧ t.out.disp = some .staleAck) :=
  ⟨⟨_, rfl, by decide⟩, ⟨_, rfl, by decide⟩, ⟨_, rfl, by decide⟩, ⟨_, rfl, by decide⟩, ⟨_, rfl, by decide⟩, ⟨_, rfl, by decide⟩,
    ⟨_, rfl, by decide⟩⟩

/-- A sender event with a `TMR_STOP` and a `TMR_START`, from a legal window (also for the frame and transmission rules). -/
theorem witness_TimerActions :
    SenderShape gbn45.straps gbn45.snd ∧
      ∃ t, exec (.gbnAck (mkAck Config.straps 0)) gbn45 = .next t ∧ Action.tmrStart 1 1000#32 ∈ t.out.actions ∧
        Action.tmrStop 0 ∈ t.out.actions :=
  ⟨⟨by decide, by decide, by decide⟩, _, rfl, by decide, by decide⟩

theorem witness_engines :
    (Instr.gbnAck (mkAck Config.straps 0)).kind.engine = .sender ∧ (Instr.gbnData v30).kind.engine = .receiver := by decide

theorem witness_Transmissions :
    (∃ t, exec (.srAck (mkAck Config.straps 0)) sr52 = .next t) ∧ (∃ t, exec (.tcpTimeout 1#32) (tcp61 0) = .next t) ∧
      (∃ t, exec (.srSend (msg 3)) sr52 = .next t) ∧ ∃ t, exec (.gbnData (ent 0).pkt) (State.init (cfg .gbn)) = .next t :=
  ⟨⟨_, rfl⟩, ⟨_, rfl⟩, ⟨_, rfl⟩, ⟨_, rfl⟩⟩

theorem witness_SrAckTouchesOnlyItsOwnSlot :
    SenderShape sr52.straps sr52.snd ∧ ∃ t, exec (.srAck (mkAck Config.straps 0)) sr52 = .next t ∧ t.out.disp = some .ok :=
  ⟨⟨by decide, by decide, by decide⟩, _, rfl, by decide⟩

theorem witness_EveryThirdDuplicate :
    (tcp61 0).straps.variant = Variant.tcp.code ∧ SenderShape (tcp61 0).straps (tcp61 0).snd ∧ (tcp61 0).snd.dup = 0 ∧
      (tcp61 0).snd.win.head? = some (ent 1) ∧ (mkAck Config.straps 0).wf (tcp61 0).straps.payloadSize ∧
      (mkAck Config.straps 0).checksum = ck Config.straps (mkAck Config.straps 0) ∧ (mkAck Config.straps 0).acknum.toInt = seqPrev (tcp61 0).straps.seqLen (tcp61 0).snd.base ∧
      ({ tcp61 0 with inputs := List.replicate 3 (.event (encode 4 (.tcpAck (mkAck Config.straps 0)))) } : State).inputs
        = List.replicate 3 (.event (encode (tcp61 0).straps.payloadSize (.tcpAck (mkAck Config.straps 0)))) :=
  ⟨by decide, ⟨by decide, by decide, by decide⟩, by decide, by decide, by decide, by decide, by decide, rfl⟩

theorem witness_SrTimeoutsCommute : (0#32 : Word32) ≠ 2#32 := by decide

theorem witness_timers :
    7 < (timersOn [2]).length ∧ 2 ≠ 7 ∧ running 7 (timersOn [2]) = false ∧ running 2 (timersOn [2]) = true ∧
      (timerStop 2 (timersOn [2]))[2]? = some ⟨false, 1000#32⟩ := by decide

/-- A running and a stopped timer among the inputs. -/
theorem witness_Expiry :
    ({ tcp61 0 with inputs := [.expire 1#32] } : State).inputs = .expire 1#32 :: [] ∧ running 1 (tcp61 0).ta = true ∧
      (tcp61 0).straps.variant = Variant.tcp.code ∧ running 2 (tcp61 0).ta = false := by decide

/-- The block of a variant after one `SEND`. -/
def oneSent (v : Variant) : State :=
  { State.init (cfg v) with
    snd := ⟨1, 0, [ent 0], 0⟩, ta := timerStart 0 1000#32 (List.replicate 8 TimerCell.init) }

theorem running_none (k : Nat) : running k (List.replicate 8 TimerCell.init) = false := by
  unfold running
  rw [List.getElem?_replicate]
  split <;> rfl

theorem oneSent_slots (v : Variant) (i : Nat) : rwGet i (oneSent v).rcv = none := by
  simp only [oneSent, State.init, Receiver.init, rwGet, List.getElem?_replicate]
  split <;> rfl

theorem oneSent_timers (v : Variant) : TimerSet (cfg v) (oneSent v).snd (oneSent v).ta := by
  refine ⟨rfl, fun k => ?_⟩
  have hr : running k (oneSent v).ta = decide (k = 0) := by
    simp only [oneSent, running_timerStart, running_none]
    split <;> simp [*]
  rw [hr, decide_eq_true_eq]
  unfold shouldRun
  split
  · constructor
    · rintro rfl
      exact ⟨0, ent 0, rfl, rfl, rfl⟩
    · rintro ⟨i, e, h, -, rfl⟩
      cases i with
      | zero => rfl
      | succ i => cases h
  · exact ⟨fun h => ⟨List.cons_ne_nil _ _, h⟩, fun h => h.2⟩

theorem oneSent_Inv (v : Variant) (l : List Stimulus) : State.Inv { oneSent v with inputs := l } where
  sender :=
    { shape := ⟨(by decide : (0 : Nat) < 8), (by decide : (1 : Nat) ≤ 4), (by decide : (1 : Nat) = seqAdd 8 0 1)⟩
      frames := by
        intro i e h
        cases i with
        | zero => cases h; exact ⟨msg 0, rfl, rfl⟩
        | succ i => cases h
      marks := ⟨by simp [oneSent, ent], by simp [oneSent, ent]⟩
      dup := ⟨(by decide : (0 : Nat) ≤ 2), fun _ => rfl⟩
      timers := oneSent_timers v
      reserved := fun h => absurd h (show ¬ v.code = 3#2 by cases v <;> decide) }
  receiver :=
    { shape := ⟨(by decide : (0 : Nat) < 8), rfl, 7, (by decide : (7 : Nat) < 8), rfl⟩
      cumulative := fun _ => ⟨rfl, oneSent_slots v⟩
      slots := ⟨oneSent_slots v 0, fun i f h => absurd ((oneSent_slots v i).symm.trans h) (by simp)⟩ }

theorem witness_ArbiterTimeout :
    State.Inv { oneSent .tcp with inputs := [.expire 0#32] } ∧ running (0#32 : Word32).toNat (oneSent .tcp).ta = true :=
  ⟨oneSent_Inv .tcp _, by decide⟩

theorem witness_RemainingTimes :
    (timersOn [0]).map (·.run) = (timerStart 0 7#32 (timersOn [0])).map (·.run) ∧
      (∃ t, step { gbn45 with inputs := [.tick] } = .next t) ∧
      step { gbn45 with inputs := [.expire 5#32] } = .refused (.timerNotRunning 5#32) := ⟨by decide, ⟨_, rfl⟩, rfl⟩

theorem witness_Tick : ({ gbn45 with inputs := [.tick, .tick] } : State).inputs = .tick :: [.tick] := rfl

theorem witness_StepRuns :
    decode (tcp61 0).straps.variant (tcp61 0).straps.payloadSize (0x01#8 :: (mkAck Config.straps 0).toBytes) = .ok (.tcpAck (mkAck Config.straps 0)) ∧
      (Instr.tcpAck (mkAck Config.straps 0)).wf (tcp61 0).straps.payloadSize = true ∧
      (Instr.tcpAck (mkAck Config.straps 0)).variant.code = (tcp61 0).straps.variant := ⟨rfl, by decide, by decide⟩

theorem witness_ReservedEncoding :
    (zeroBytes 16).length = 12 + (tcp61 0).straps.payloadSize ∧ 3 < (0x04#8 : Byte).toNat ∧
      (zeroBytes 16).length = 12 + reservedCfg.payloadSize ∧ reservedCfg.variant = 3#2 ∧
      (0x00#8 : Byte) = EventKind.send.code ∧ (0x03#8 : Byte) = EventKind.data.code := by decide

theorem witness_Reset : ({ gbn45 with inputs := [.rst 2#2 5#32] } : State).inputs = .rst 2#2 5#32 :: [] := rfl

theorem witness_StepKeepsTheInvariant :
    State.Inv { oneSent .sr with inputs := [.event (0x01#8 :: (mkAck Config.straps 0).toBytes)] } ∧
      ∃ t, step { oneSent .sr with inputs := [.event (0x01#8 :: (mkAck Config.straps 0).toBytes)] } = .next t :=
  ⟨oneSent_Inv .sr _, _, rfl⟩

theorem witness_StepKeepsTheSenderWindowBound :
    SenderShape gbn45.straps gbn45.snd ∧
      ∃ t, step { gbn45 with inputs := [.event (0x00#8 :: (zeroBytes 12 ++ msg 2))] } = .next t :=
  ⟨⟨by decide, by decide, by decide⟩, _, rfl⟩

/-- An SR block with an entry in its window, its timer running, and a frame buffered behind a gap. -/
def srBuffered : State := { oneSent .sr with rcv := ⟨0, mkAck Config.straps 2, [none, none, some (ent 2).pkt, none]⟩ }

theorem srBuffered_slot {i : Nat} {f : Frame} (h : rwGet i srBuffered.rcv = some f) : i = 2 ∧ f = (ent 2).pkt := by
  match i, h with
  | 0, h => cases h
  | 1, h => cases h
  | 2, h => cases h; exact ⟨rfl, rfl⟩
  | 3, h => cases h
  | _ + 4, h => cases h

theorem srBuffered_Inv : State.Inv srBuffered where
  sender :=
    have h := (oneSent_Inv .sr []).sender
    ⟨h.shape, h.frames, h.marks, h.dup, h.timers, h.reserved⟩
  receiver :=
    { shape := ⟨(by decide : (0 : Nat) < 8), rfl, 2, (by decide : (2 : Nat) < 8), rfl⟩
      cumulative := fun h => absurd rfl h
      slots := ⟨rfl, fun i f h => by obtain ⟨rfl, rfl⟩ := srBuffered_slot h; decide⟩ }

theorem witness_RegistersFit :
    State.Inv srBuffered ∧ running 0 srBuffered.ta = true ∧ ent 0 ∈ srBuffered.snd.win ∧
      rwGet 2 srBuffered.rcv = some (ent 2).pkt := ⟨srBuffered_Inv, by decide, by decide, by decide⟩

theorem witness_Idle : gbn45.inputs = [] := rfl

/-- `W = 3`. -/
def cfg3 : Straps := { variant := 0#2, windowLen := 3, payloadSize := 4, timeoutMs := 1000#32, checksum := .arqCk32 }

/-- R121, R122, R123 with `SEQ_LEN = 6`, no power of two (V19): the reduction is not the register's wrap. -/
theorem test_sequence_unit :
    (seqIncReg cfg3 (seqReg cfg3 5)).toNat = 0 ∧ (seqDistReg cfg3 (seqReg cfg3 1) (seqReg cfg3 4)).toNat = 3 ∧
      (seqAddReg cfg3 (seqReg cfg3 4) (seqReg cfg3 3)).toNat = 1 ∧
      inWindowReg cfg3 (seqReg cfg3 1) (seqReg cfg3 5) (seqReg cfg3 3) = true ∧
      inWindowReg cfg3 (seqReg cfg3 2) (seqReg cfg3 5) (seqReg cfg3 3) = false ∧
      isPrevReg cfg3 (seqReg cfg3 5) (seqReg cfg3 0) = true ∧ isPrevReg cfg3 (seqReg cfg3 0) (seqReg cfg3 5) = false := by decide

theorem witness_RunDelivers :
    State.Inv { oneSent .gbn with inputs := [.event (0x03#8 :: (ent 0).pkt.toBytes)] } ∧
      ∀ x ∈ [Stimulus.event (0x03#8 :: (ent 0).pkt.toBytes)], ∀ v T, x ≠ .rst v T :=
  ⟨oneSent_Inv .gbn _, by simp⟩

/-- A after its first `SEND` in the closed system. -/
def sentA : State :=
  { oneSent .gbn with out := ⟨some .sender, [.txData (ent 0).pkt, .tmrStart 0 1000#32], some .ok⟩ }

/-- B, whose `TIMEOUT_MS` is another, after the arrival of packet 0. -/
def receivedB : State :=
  { State.init { cfg .gbn with timeoutMs := 7#32 } with
    rcv := ⟨1, mkAck Config.straps 0, [none, none, none, none]⟩
    out := ⟨some .receiver, [.deliver (msg 0), .txAck (mkAck Config.straps 0)], some .ok⟩ }

/-- A after the arrival of the acknowledgment of packet 0. -/
def ackedA : State :=
  { State.init (cfg .gbn) with
    snd := ⟨1, 1, [], 0⟩, ta := timerStop 0 (oneSent .gbn).ta, out := ⟨some .sender, [.tmrStop 0], some .ok⟩ }

def closed1 : ClosedSystem := { ClosedSystem.start (cfg .gbn) 7#32 with a := sentA, messages := [msg 0], frames := [(ent 0).pkt] }

def closed2 : ClosedSystem :=
  { closed1 with b := receivedB, delivered := [msg 0], acks := [(0, mkAck Config.straps 0)] }

def closed3 : ClosedSystem := { closed2 with a := ackedA }

theorem closed_sends : ClosedStep (cfg .gbn) .gbn (ClosedSystem.start (cfg .gbn) 7#32) (.send (msg 0)) closed1 :=
  .send (a' := sentA) rfl (next_of_after (by decide))

theorem closed_delivers : ClosedStep (cfg .gbn) .gbn closed1 (.data 0 (ent 0).pkt) closed2 :=
  .data (b' := receivedB) rfl (by decide) (next_of_after (by decide))

theorem closed_acknowledges : ClosedStep (cfg .gbn) .gbn closed2 (.ack 0 (mkAck Config.straps 0)) closed3 :=
  .ack (a' := ackedA) (by decide) (by decide) (next_of_after (by decide))

/-- A closed run in which a message is sent and delivered. -/
theorem witness_ClosedSystem :
    (cfg .gbn).FitsWire ∧ (cfg .gbn).variant = Variant.gbn.code ∧
      Closed (cfg .gbn) 7#32 .gbn closed3 ∧ closed3.messages = [msg 0] ∧ closed3.delivered = [msg 0] :=
  ⟨by decide, rfl, .step (.step (.step .start closed_sends) closed_delivers) closed_acknowledges, rfl, rfl⟩

/-- The infinite run that sends, delivers and acknowledges one message, and then waits. -/
def oneMessageRun : ClosedRun (cfg .gbn) 7#32 .gbn where
  sys
    | 0 => ClosedSystem.start (cfg .gbn) 7#32
    | 1 => closed1
    | 2 => closed2
    | _ + 3 => closed3
  move
    | 0 => .send (msg 0)
    | 1 => .data 0 (ent 0).pkt
    | 2 => .ack 0 (mkAck Config.straps 0)
    | _ + 3 => .wait
  starts := rfl
  steps
    | 0 => closed_sends
    | 1 => closed_delivers
    | 2 => closed_acknowledges
    | _ + 3 => .wait

theorem oneMessageRun_waits {m : Nat} (h : 3 ≤ m) : oneMessageRun.move m = .wait ∧ oneMessageRun.sys m = closed3 := by
  obtain ⟨k, rfl⟩ := Nat.exists_eq_add_of_le' h
  exact ⟨rfl, rfl⟩

theorem closed3_stopped (k : Nat) : running k closed3.a.ta = false := by
  show running k (timerStop 0 (timerStart 0 1000#32 (List.replicate 8 TimerCell.init))) = false
  rw [running_timerStop, running_timerStart, running_none]
  split <;> rfl

/-- That run is fair, a message of it is accepted, and its application stops. -/
theorem witness_FairRun :
    (cfg .gbn).FitsWire ∧ (cfg .gbn).variant = Variant.gbn.code ∧ oneMessageRun.Fair ∧
      0 < (oneMessageRun.sys 1).messages.length ∧ ∀ m, 3 ≤ m → ∀ x, oneMessageRun.move m ≠ .send x := by
  refine ⟨by decide, rfl, ⟨?_, ?_, ?_⟩, by decide, fun m hm x => by rw [(oneMessageRun_waits hm).1]; exact ClosedMove.noConfusion⟩
  · rintro k ⟨n, h⟩
    have hr := h (n + 3) (by omega)
    rw [(oneMessageRun_waits (by omega)).2, closed3_stopped] at hr
    cases hr
  · intro f h
    obtain ⟨m, hm, hs, -⟩ := h 3
    rw [(oneMessageRun_waits hm).1] at hs
    cases hs
  · intro f h
    obtain ⟨m, hm, hs, -⟩ := h 3
    rw [(oneMessageRun_waits hm).1] at hs
    cases hs

end Sys2Proof.Tests
end

section
/-! # Reset and the first `SEND` after it (`10_state.md` R55, R56) -/

namespace Sys2Proof.Machine

/-! ## A `SEND` on the sender of reset -/

@[simp] theorem Sender.init_base : Sender.init.base = 0 := rfl
@[simp] theorem Sender.init_nextseqnum : Sender.init.nextseqnum = 0 := rfl
@[simp] theorem Sender.init_count : Sender.init.count = 0 := rfl

/-- Everything `SR.SEND` can do (R192). -/
theorem execSrSend_cases (m : List Byte) (s : State) :
    (s.snd.count = s.straps.windowLen ∧ execSrSend m s = raise .sender .windowFull s) ∨
    (s.snd.count ≠ s.straps.windowLen ∧
      execSrSend m s = done .sender .ok
        [.tmrStart s.snd.nextseqnum s.straps.timeoutMs, .txData (mkData s.straps s.snd.nextseqnum m)]
        (s.withSnd { s.snd with
          nextseqnum := seqInc s.straps.seqLen s.snd.nextseqnum
          win := s.snd.win ++ [⟨mkData s.straps s.snd.nextseqnum m, false⟩] })) := by
  unfold execSrSend
  by_cases h : s.snd.count = s.straps.windowLen
  · exact .inl ⟨h, by simp [swFull, h]⟩
  · refine .inr ⟨h, ?_⟩
    rw [if_neg (by simpa [swFull] using h)]
    rfl

section

variable {s : State} (hs : s.snd = Sender.init)
include hs

/-- No window has length 0 (R42), so the empty one is not full. -/
theorem count_ne_windowLen_of_init : s.snd.count ≠ s.straps.windowLen := by
  rw [hs, Sender.init_count]
  exact s.straps.windowLen_pos.ne

/-- The first `SEND` of a FIFO sender is accepted: it sends number 0 and starts the timer keyed 0. -/
theorem sendFifo_of_init (m : List Byte) :
    ∃ u, sendFifo m s = .next u ∧ u.out.actions = [.txData (mkData s.straps 0 m), .tmrStart 0 s.straps.timeoutMs] := by
  rcases sendFifo_cases m s with ⟨hfull, -⟩ | ⟨-, h⟩
  · exact absurd hfull (count_ne_windowLen_of_init hs)
  · exact ⟨_, h.trans (done_eq ..), by simp [hs]⟩

/-- The first `SEND` of the selective-repeat sender is accepted: it starts the timer keyed 0 and sends number 0. -/
theorem execSrSend_of_init (m : List Byte) :
    ∃ u, execSrSend m s = .next u ∧ u.out.actions = [.tmrStart 0 s.straps.timeoutMs, .txData (mkData s.straps 0 m)] := by
  rcases execSrSend_cases m s with ⟨hfull, -⟩ | ⟨-, h⟩
  · exact absurd hfull (count_ne_windowLen_of_init hs)
  · exact ⟨_, h.trans (done_eq ..), by simp [hs]⟩

end

/-! ## What reset leaves -/

@[simp] theorem mkAck_seqnum (c : Straps) (a : Nat) : (mkAck c a).seqnum = 0#32 := rfl

@[simp] theorem resetBlock_snd (v : BitVec 2) (T : Word32) (s : State) : (resetBlock v T s).snd = Sender.init := rfl

/-- The receiver after reset depends on no strap that reset samples (log entry 13). -/
@[simp] theorem resetBlock_rcv (v : BitVec 2) (T : Word32) (s : State) :
    (resetBlock v T s).rcv = Receiver.init s.straps := rfl

/-- A frame carries nothing of the straps that reset samples. -/
@[simp] theorem mkData_resetBlock (v : BitVec 2) (T : Word32) (s : State) (n : Nat) (m : List Byte) :
    mkData (resetBlock v T s).straps n m = mkData s.straps n m := rfl

/-- The first `SEND` after a reset, in each variant. -/
theorem exec_send_resetBlock (v : BitVec 2) (T : Word32) (s : State) (m : List Byte) :
    (∃ u, exec (.gbnSend m) (resetBlock v T s) = .next u ∧ u.out.actions = [.txData (mkData s.straps 0 m), .tmrStart 0 T]) ∧
    (∃ u, exec (.tcpSend m) (resetBlock v T s) = .next u ∧ u.out.actions = [.txData (mkData s.straps 0 m), .tmrStart 0 T]) ∧
    (∃ u, exec (.srSend m) (resetBlock v T s) = .next u ∧ u.out.dataFrames = [mkData s.straps 0 m]) := by
  have hfifo := sendFifo_of_init (resetBlock_snd v T s) m
  obtain ⟨u, hu, ha⟩ := execSrSend_of_init (resetBlock_snd v T s) m
  exact ⟨hfifo, hfifo, u, hu, by simp [Report.dataFrames, ha]⟩

/-- Settles O50: the registers are those of `Sender.init` and `Receiver.init`, and the empty window accepts a `SEND`. -/
theorem resetLeavesTheResetRegisters : Obligations.ResetLeavesTheResetRegisters := by
  intro s v T rest h
  refine ⟨resetBlock v T (s.withInputs rest), step_rst h, ?_⟩
  have sender : (resetBlock v T (s.withInputs rest)).snd = Sender.init := resetBlock_snd ..
  have receiver : (resetBlock v T (s.withInputs rest)).rcv = Receiver.init s.straps := resetBlock_rcv ..
  rw [sender, receiver]
  exact ⟨rfl, rfl, rfl, rfl, rfl, rfl, rfl, mkAck_seqnum .., mkAck_acknum .., mkAck_payload .., mk_carries_own_checksum ..,
    rfl, exec_send_resetBlock v T (s.withInputs rest)⟩

end Sys2Proof.Machine
end

section
/-! # A sender event and a receiver event commute (`20_memory.md` R77) -/

namespace Sys2Proof.Machine

/-- On `s` the event `g` is the sender engine's alone: it leaves the receiver as it is, and what it makes of the sender, of the
arbiter and of the ports is the same beside every receiver. -/
def IsSenderEvent (g : State → Result) (s : State) : Prop :=
  ∃ snd ta report, g s = .next (((s.withSnd snd).withTa ta).withOut report) ∧
    ∀ rcv out, g ((s.withRcv rcv).withOut out) = .next ((((s.withRcv rcv).withSnd snd).withTa ta).withOut report)

/-- On `s` the event `g` is the receiver engine's alone: it leaves the sender and the arbiter as they are, and what it makes of
the receiver and of the ports is the same beside every sender and arbiter. -/
def IsReceiverEvent (g : State → Result) (s : State) : Prop :=
  ∃ rcv report, g s = .next ((s.withRcv rcv).withOut report) ∧
    ∀ snd ta out, g (((s.withSnd snd).withTa ta).withOut out) =
      .next ((((s.withSnd snd).withTa ta).withRcv rcv).withOut report)

/-! ## The sender engine -/

theorem raise_isSenderEvent (d : Disposition) (s : State) : IsSenderEvent (raise .sender d) s :=
  ⟨_, _, _, rfl, fun _ _ => rfl⟩

theorem sendFifo_isSenderEvent (m : List Byte) (s : State) : IsSenderEvent (sendFifo m) s := by
  by_cases h : swFull s.straps.windowLen s.snd
  · exact ⟨_, _, _, if_pos h, fun _ _ => if_pos h⟩
  · exact ⟨_, _, _, if_neg h, fun _ _ => if_neg h⟩

theorem execSrSend_isSenderEvent (m : List Byte) (s : State) : IsSenderEvent (execSrSend m) s := by
  by_cases h : swFull s.straps.windowLen s.snd
  · exact ⟨_, _, _, if_pos h, fun _ _ => if_pos h⟩
  · exact ⟨_, _, _, if_neg h, fun _ _ => if_neg h⟩

theorem execGbnTimeout_isSenderEvent (k : Word32) (s : State) : IsSenderEvent (execGbnTimeout k) s := by
  by_cases h : swEmpty s.snd || decide (k.toNat ≠ s.snd.base)
  · exact ⟨_, _, _, if_pos h, fun _ _ => if_pos h⟩
  · exact ⟨_, _, _, if_neg h, fun _ _ => if_neg h⟩

theorem execGbnAck_isSenderEvent (f : Frame) (s : State) : IsSenderEvent (execGbnAck f) s := by
  simp only [IsSenderEvent, execGbnAck, State.withOut_straps, State.withRcv_straps]
  cases readAcknum s.straps f with
  | error d => exact raise_isSenderEvent d s
  | ok a => exact ⟨_, _, _, rfl, fun _ _ => rfl⟩

theorem execSrAck_isSenderEvent (f : Frame) (s : State) : IsSenderEvent (execSrAck f) s := by
  simp only [IsSenderEvent, execSrAck, State.withOut_straps, State.withOut_snd, State.withRcv_straps, State.withRcv_snd]
  cases readAcknum s.straps f with
  | error d => exact raise_isSenderEvent d s
  | ok a =>
    dsimp only
    cases swGet (swIndexOf s.straps.seqLen a s.snd) s.snd with
    | none => exact raise_isSenderEvent .staleAck s
    | some e =>
      by_cases h : e.acked
      · exact ⟨_, _, _, if_pos h, fun _ _ => if_pos h⟩
      · exact ⟨_, _, _, if_neg h, fun _ _ => if_neg h⟩

theorem execSrTimeout_isSenderEvent (k : Word32) (s : State) : IsSenderEvent (execSrTimeout k) s := by
  by_cases hk : s.straps.seqLen ≤ k.toNat
  · exact ⟨_, _, _, if_pos hk, fun _ _ => if_pos hk⟩
  simp only [IsSenderEvent, execSrTimeout, State.withOut_straps, State.withOut_snd, State.withRcv_straps, State.withRcv_snd,
    hk, if_false]
  cases swGet (swIndexOf s.straps.seqLen k.toNat s.snd) s.snd with
  | none => exact raise_isSenderEvent .spuriousTimeout s
  | some e =>
    by_cases h : e.acked
    · exact ⟨_, _, _, if_pos h, fun _ _ => if_pos h⟩
    · exact ⟨_, _, _, if_neg h, fun _ _ => if_neg h⟩

theorem countDuplicate_isSenderEvent (s : State) : IsSenderEvent countDuplicate s := by
  simp only [IsSenderEvent, countDuplicate, State.withOut_snd, State.withRcv_snd]
  by_cases h : s.snd.dup + 1 = Config.dupThresh
  · cases swGet 0 s.snd with
    | none => exact ⟨_, _, _, if_pos h, fun _ _ => if_pos h⟩
    | some e => exact ⟨_, _, _, if_pos h, fun _ _ => if_pos h⟩
  · exact ⟨_, _, _, if_neg h, fun _ _ => if_neg h⟩

theorem execTcpAck_isSenderEvent (f : Frame) (s : State) : IsSenderEvent (execTcpAck f) s := by
  simp only [IsSenderEvent, execTcpAck, State.withOut_straps, State.withOut_snd, State.withRcv_straps, State.withRcv_snd]
  cases readAcknum s.straps f with
  | error d => exact raise_isSenderEvent d s
  | ok a =>
    by_cases hn : seqDist s.straps.seqLen a s.snd.base < s.snd.count
    · exact ⟨_, _, _, if_pos hn, fun _ _ => if_pos hn⟩
    simp only [hn, if_false]
    by_cases hp : seqDist s.straps.seqLen a s.snd.base = s.straps.seqLen - 1
    · simp only [hp, if_true]
      exact countDuplicate_isSenderEvent s
    · exact ⟨_, _, _, if_neg hp, fun _ _ => if_neg hp⟩

theorem execTcpTimeout_isSenderEvent (k : Word32) (s : State) : IsSenderEvent (execTcpTimeout k) s := by
  simp only [IsSenderEvent, execTcpTimeout, State.withOut_snd, State.withRcv_snd]
  cases swGet 0 s.snd with
  | none => exact raise_isSenderEvent .spuriousTimeout s
  | some e =>
    by_cases h : k.toNat ≠ s.snd.base
    · exact ⟨_, _, _, if_pos h, fun _ _ => if_pos h⟩
    · exact ⟨_, _, _, if_neg h, fun _ _ => if_neg h⟩

/-- `SEND`, `ACK` and `TIMEOUT` read and write nothing of the receiver. -/
theorem exec_isSenderEvent {i : Instr} (h : i.kind.engine = .sender) (s : State) : IsSenderEvent (exec i) s := by
  cases i with
  | gbnSend m | tcpSend m => exact sendFifo_isSenderEvent m s
  | srSend m => exact execSrSend_isSenderEvent m s
  | gbnAck f => exact execGbnAck_isSenderEvent f s
  | srAck f => exact execSrAck_isSenderEvent f s
  | tcpAck f => exact execTcpAck_isSenderEvent f s
  | gbnTimeout k => exact execGbnTimeout_isSenderEvent k s
  | srTimeout k => exact execSrTimeout_isSenderEvent k s
  | tcpTimeout k => exact execTcpTimeout_isSenderEvent k s
  | gbnData f | srData f | tcpData f => cases h

/-! ## The receiver engine -/

/-- An event with no timer action leaves the arbiter as it is (R103). -/
theorem done_of_noTimer {acts : List Action} (h : ∀ a ∈ acts, ∀ ta, applyTimerAction ta a = ta) (e : Engine) (d : Disposition)
    (s : State) : done e d acts s = .next (s.withOut ⟨some e, acts, some d⟩) := by
  simp only [done, applyTimerActions_of_noTimer h, State.withTa_self]

/-- What an accepted `SR.DATA` emits is nothing for the arbiter (R206). -/
theorem txAck_deliverLoop_noTimer (a : Frame) (L n : Nat) (r : Receiver) :
    ∀ b ∈ Action.txAck a :: (deliverLoop L n r).1, ∀ ta, applyTimerAction ta b = ta :=
  List.forall_mem_cons.2 ⟨fun _ => rfl, deliverLoop_noTimer L n r⟩

theorem receiveInOrder_isReceiverEvent (f : Frame) (s : State) : IsReceiverEvent (receiveInOrder f) s := by
  simp only [IsReceiverEvent, receiveInOrder, State.withOut_straps, State.withOut_rcv, State.withTa_straps, State.withTa_rcv,
    State.withSnd_straps, State.withSnd_rcv]
  cases readSeqnum s.straps f with
  | error d => exact ⟨_, _, rfl, fun _ _ _ => rfl⟩
  | ok q =>
    by_cases h : q = s.rcv.base
    · exact ⟨_, _, if_pos h, fun _ _ _ => if_pos h⟩
    · exact ⟨_, _, if_neg h, fun _ _ _ => if_neg h⟩

theorem execSrData_isReceiverEvent (f : Frame) (s : State) : IsReceiverEvent (execSrData f) s := by
  simp only [IsReceiverEvent, execSrData, State.withOut_straps, State.withOut_rcv, State.withTa_straps, State.withTa_rcv,
    State.withSnd_straps, State.withSnd_rcv]
  cases readSeqnum s.straps f with
  | error d => exact ⟨_, _, rfl, fun _ _ _ => rfl⟩
  | ok q =>
    by_cases h : rwIndexOf s.straps.seqLen q s.rcv < s.straps.windowLen && !rwReceived (rwIndexOf s.straps.seqLen q s.rcv) s.rcv
    · exact ⟨_, _, (if_pos h).trans (done_of_noTimer (txAck_deliverLoop_noTimer _ _ _ _) ..),
        fun _ _ _ => (if_pos h).trans (done_of_noTimer (txAck_deliverLoop_noTimer _ _ _ _) ..)⟩
    · exact ⟨_, _, if_neg h, fun _ _ _ => if_neg h⟩

/-- `DATA` reads and writes nothing of the sender or of the arbiter. -/
theorem exec_isReceiverEvent {j : Instr} (h : j.kind.engine = .receiver) (s : State) : IsReceiverEvent (exec j) s := by
  cases j with
  | gbnData f | tcpData f => exact receiveInOrder_isReceiverEvent f s
  | srData f => exact execSrData_isReceiverEvent f s
  | gbnSend m | srSend m | tcpSend m => cases h
  | gbnAck f | srAck f | tcpAck f => cases h
  | gbnTimeout k | srTimeout k | tcpTimeout k => cases h

/-! ## Both engines -/

/-- Settles O34: each event runs after the other as it runs alone, and they write different parts of the state. -/
theorem senderAndReceiverEventsCommute : Obligations.SenderAndReceiverEventsCommute := by
  intro s i j hi hj
  obtain ⟨snd, ta, sreport, sender, senderAfter⟩ := exec_isSenderEvent hi s
  obtain ⟨rcv, rreport, receiver, receiverAfter⟩ := exec_isReceiverEvent hj s
  exact ⟨_, _, _, _, sender, receiverAfter snd ta sreport, receiver, senderAfter rcv rreport, rfl, rfl, rfl⟩

end Sys2Proof.Machine
end

section
/-! # A frame is valid when its checksum is that of the frame with the checksum field zeroed (`30_encoding.md` R89) -/

namespace Sys2Proof.Machine

theorem be32Bytes_zero : be32Bytes 0#32 = zeroBytes 4 := rfl

/-- The checksum input is the wire bytes of the frame with its checksum field zeroed (R132). -/
theorem toBytes_checksum_zero (f : Frame) : { f with checksum := 0#32 }.toBytes = cin f := by
  rw [Frame.toBytes, cin, be32Bytes_zero]

/-- Settles O7: the wire bytes of the zeroed frame are the checksum input, and `valid` compares with the checksum of that. -/
theorem validMeansChecksumOfZeroedFrame : Obligations.ValidMeansChecksumOfZeroedFrame := by
  intro c f
  rw [toBytes_checksum_zero]
  exact valid_iff c f

end Sys2Proof.Machine
end

section
/-! # Timer actions reach the arbiter, with `TIMEOUT_MS` and a sequence number (`30_encoding.md` R103) -/

namespace Sys2Proof.Machine

/-! ## Legal timer actions -/

/-- A start carries `TIMEOUT_MS`, and the key of a start or a stop is a sequence number. -/
def LegalTimerAction (c : Straps) : Action → Prop
  | .tmrStart k d => d = c.timeoutMs ∧ k < c.seqLen
  | .tmrStop k => k < c.seqLen
  | .txData _ | .txAck _ | .deliver _ => True

@[simp] theorem legalTimerAction_tmrStart (c : Straps) (k : Nat) (d : Word32) :
    LegalTimerAction c (.tmrStart k d) ↔ d = c.timeoutMs ∧ k < c.seqLen := Iff.rfl
@[simp] theorem legalTimerAction_tmrStop (c : Straps) (k : Nat) : LegalTimerAction c (.tmrStop k) ↔ k < c.seqLen := Iff.rfl
@[simp] theorem legalTimerAction_txData (c : Straps) (f : Frame) : LegalTimerAction c (.txData f) := trivial
@[simp] theorem legalTimerAction_txAck (c : Straps) (f : Frame) : LegalTimerAction c (.txAck f) := trivial
@[simp] theorem legalTimerAction_deliver (c : Straps) (m : List Byte) : LegalTimerAction c (.deliver m) := trivial

/-- An action that leaves every arbiter as it is starts and stops no timer: a start would show where no timer runs, a stop
where all run. -/
theorem legalTimerAction_of_noTimer (c : Straps) {a : Action} (h : ∀ ta, applyTimerAction ta a = ta) : LegalTimerAction c a := by
  cases a with
  | tmrStart k d =>
    have hrun := running_timerStart k k d (List.replicate (k + 1) ⟨false, 0#32⟩)
    rw [show timerStart k d _ = _ from h _] at hrun
    simp [running] at hrun
  | tmrStop k =>
    have hrun := running_timerStop k k (List.replicate (k + 1) ⟨true, 0#32⟩)
    rw [show timerStop k _ = _ from h _] at hrun
    simp [running] at hrun
  | txData f | txAck f | deliver m => trivial

theorem restartTimer_legal {c : Straps} {r : Sender} (h : r.base < c.seqLen) :
    ∀ a ∈ restartTimer c.timeoutMs r, LegalTimerAction c a := by
  rcases restartTimer_cases c.timeoutMs r with ⟨-, hr⟩ | ⟨-, hr⟩ <;> simp [hr, h]

/-- The event ends with `done`, on the arbiter of `s` as it stood, and its timer actions are all legal. -/
def DrivesArbiterLegally (s : State) (r : Result) : Prop :=
  ∃ e d acts u, r = done e d acts u ∧ u.ta = s.ta ∧ ∀ a ∈ acts, LegalTimerAction s.straps a

theorem raise_drivesArbiterLegally (e : Engine) (d : Disposition) (s : State) : DrivesArbiterLegally s (raise e d s) :=
  ⟨_, _, _, _, rfl, rfl, by simp⟩

/-! ## The sender engine -/

/-- Everything `GBN.TIMEOUT` can do (R170). -/
theorem execGbnTimeout_cases (k : Word32) (s : State) :
    ((s.snd.win = [] ∨ k.toNat ≠ s.snd.base) ∧ execGbnTimeout k s = raise .sender .spuriousTimeout s) ∨
    (s.snd.win ≠ [] ∧ k.toNat = s.snd.base ∧
      execGbnTimeout k s = done .sender .ok
        (.tmrStop k.toNat :: .tmrStart k.toNat s.straps.timeoutMs :: s.snd.win.map fun e => .txData e.pkt) s) := by
  have hguard : (swEmpty s.snd || decide (k.toNat ≠ s.snd.base)) = true ↔ s.snd.win = [] ∨ k.toNat ≠ s.snd.base := by
    simp [swEmpty, Sender.count]
  by_cases h : s.snd.win = [] ∨ k.toNat ≠ s.snd.base
  · exact .inl ⟨h, if_pos (hguard.2 h)⟩
  · obtain ⟨hwin, hk⟩ := not_or.1 h
    exact .inr ⟨hwin, not_not.1 hk, if_neg (mt hguard.1 h)⟩

/-- Everything `TCP.TIMEOUT` can do (R226). -/
theorem execTcpTimeout_cases (k : Word32) (s : State) :
    ((s.snd.win = [] ∨ k.toNat ≠ s.snd.base) ∧ execTcpTimeout k s = raise .sender .spuriousTimeout s) ∨
    (∃ e, s.snd.win.head? = some e ∧ k.toNat = s.snd.base ∧
      execTcpTimeout k s = done .sender .ok [.tmrStart k.toNat s.straps.timeoutMs, .txData e.pkt] s) := by
  unfold execTcpTimeout swGet
  rw [← List.head?_eq_getElem?]
  cases hw : s.snd.win.head? with
  | none => exact .inl ⟨.inl (by simpa using hw), rfl⟩
  | some e =>
    by_cases hk : k.toNat = s.snd.base
    · exact .inr ⟨e, rfl, hk, if_neg (not_not.2 hk)⟩
    · exact .inl ⟨.inr hk, if_pos hk⟩

theorem execSrAck_drivesArbiterLegally (f : Frame) (s : State) : DrivesArbiterLegally s (execSrAck f s) := by
  rcases execSrAck_cases f s with ⟨d, -, h⟩ | ⟨a, e, -, ha, -, -, h⟩
  · exact h ▸ raise_drivesArbiterLegally ..
  · exact ⟨_, _, _, _, h, rfl, by simp [ha]⟩

theorem execSrTimeout_drivesArbiterLegally (k : Word32) (s : State) : DrivesArbiterLegally s (execSrTimeout k s) := by
  rcases execSrTimeout_cases k s with h | ⟨e, hk, -, -, h⟩
  · exact h ▸ raise_drivesArbiterLegally ..
  · exact ⟨_, _, _, _, h, rfl, by simp [hk]⟩

theorem countDuplicate_drivesArbiterLegally (s : State) : DrivesArbiterLegally s (countDuplicate s) := by
  rcases countDuplicate_cases s with ⟨-, h⟩ | ⟨-, -, h⟩ | ⟨e, -, -, h⟩ <;>
  exact ⟨_, _, _, _, h, rfl, by simp⟩

section

variable {s : State} (hs : SenderShape s.straps s.snd)
include hs

theorem sendFifo_drivesArbiterLegally (m : List Byte) : DrivesArbiterLegally s (sendFifo m s) := by
  rcases sendFifo_cases m s with ⟨-, h⟩ | ⟨-, h⟩
  · exact h ▸ raise_drivesArbiterLegally ..
  · refine ⟨_, _, _, _, h, rfl, List.forall_mem_cons.2 ⟨trivial, ?_⟩⟩
    split <;> simp [hs.base_lt]

/-- `S.nextseqnum` is the sum of the base and the count modulo `SEQ_LEN`, so it is a sequence number (R46). -/
theorem execSrSend_drivesArbiterLegally (m : List Byte) : DrivesArbiterLegally s (execSrSend m s) := by
  have hnext : s.snd.nextseqnum < s.straps.seqLen := hs.next_eq ▸ seqAdd_lt s.straps.seqLen_pos ..
  rcases execSrSend_cases m s with ⟨-, h⟩ | ⟨-, h⟩
  · exact h ▸ raise_drivesArbiterLegally ..
  · exact ⟨_, _, _, _, h, rfl, by simp [hnext]⟩

theorem execGbnAck_drivesArbiterLegally (f : Frame) : DrivesArbiterLegally s (execGbnAck f s) := by
  rcases execGbnAck_cases f s with ⟨d, -, h⟩ | ⟨a, n, -, -, -, ⟨-, h⟩ | ⟨-, h⟩⟩
  · exact h ▸ raise_drivesArbiterLegally ..
  · exact ⟨_, _, _, _, h, rfl, List.forall_mem_cons.2 ⟨hs.base_lt, restartTimer_legal (seqAdd_lt s.straps.seqLen_pos ..)⟩⟩
  · exact ⟨_, _, _, _, h, rfl, List.forall_mem_cons.2 ⟨hs.base_lt, restartTimer_legal hs.base_lt⟩⟩

theorem execGbnTimeout_drivesArbiterLegally (k : Word32) : DrivesArbiterLegally s (execGbnTimeout k s) := by
  rcases execGbnTimeout_cases k s with ⟨-, h⟩ | ⟨-, hk, h⟩
  · exact h ▸ raise_drivesArbiterLegally ..
  · exact ⟨_, _, _, _, h, rfl, by simp [hk, hs.base_lt]⟩

theorem execTcpAck_drivesArbiterLegally (f : Frame) : DrivesArbiterLegally s (execTcpAck f s) := by
  rcases execTcpAck_cases f s with ⟨d, -, h⟩ | ⟨a, i, -, -, -, ⟨-, h⟩ | ⟨-, -, h⟩⟩
  · exact h ▸ raise_drivesArbiterLegally ..
  · exact ⟨_, _, _, _, h, rfl, List.forall_mem_cons.2 ⟨hs.base_lt, restartTimer_legal (seqAdd_lt s.straps.seqLen_pos ..)⟩⟩
  · exact h ▸ countDuplicate_drivesArbiterLegally s

theorem execTcpTimeout_drivesArbiterLegally (k : Word32) : DrivesArbiterLegally s (execTcpTimeout k s) := by
  rcases execTcpTimeout_cases k s with ⟨-, h⟩ | ⟨e, -, hk, h⟩
  · exact h ▸ raise_drivesArbiterLegally ..
  · exact ⟨_, _, _, _, h, rfl, by simp [hk, hs.base_lt]⟩

end

/-! ## The receiver engine -/

theorem receiveInOrder_drivesArbiterLegally (f : Frame) (s : State) : DrivesArbiterLegally s (receiveInOrder f s) := by
  rcases receiveInOrder_cases f s with ⟨d, -, h, -⟩ | ⟨-, -, -, h⟩ <;>
  exact ⟨_, _, _, _, h, rfl, by simp⟩

theorem execSrData_drivesArbiterLegally (f : Frame) (s : State) : DrivesArbiterLegally s (execSrData f s) := by
  rcases execSrData_cases f s with ⟨d, -, h⟩ | ⟨q, -, -, -, ⟨d, -, h⟩ | ⟨i, -, -, -, h⟩⟩
  · exact h ▸ raise_drivesArbiterLegally ..
  · exact ⟨_, _, _, _, h, rfl, by simp⟩
  · exact ⟨_, _, _, _, h, rfl, fun b hb => legalTimerAction_of_noTimer _ (txAck_deliverLoop_noTimer _ _ _ _ b hb)⟩

/-! ## Both engines -/

theorem exec_drivesArbiterLegally {s : State} (hs : SenderShape s.straps s.snd) (i : Instr) : DrivesArbiterLegally s (exec i s) := by
  cases i with
  | gbnSend m | tcpSend m => exact sendFifo_drivesArbiterLegally hs m
  | srSend m => exact execSrSend_drivesArbiterLegally hs m
  | gbnAck f => exact execGbnAck_drivesArbiterLegally hs f
  | srAck f => exact execSrAck_drivesArbiterLegally f s
  | tcpAck f => exact execTcpAck_drivesArbiterLegally hs f
  | gbnTimeout k => exact execGbnTimeout_drivesArbiterLegally hs k
  | srTimeout k => exact execSrTimeout_drivesArbiterLegally k s
  | tcpTimeout k => exact execTcpTimeout_drivesArbiterLegally hs k
  | gbnData f | tcpData f => exact receiveInOrder_drivesArbiterLegally f s
  | srData f => exact execSrData_drivesArbiterLegally f s

/-- Settles O33: every event ends with `done`, which gives its actions to the arbiter, and all keys come from the sender's
registers or from a range check. -/
theorem timerActionsCarryTimeoutAndReachTheArbiter : Obligations.TimerActionsCarryTimeoutAndReachTheArbiter := by
  intro i s t hs ht
  obtain ⟨e, d, acts, u, hdone, hta, hlegal⟩ := exec_drivesArbiterLegally hs i
  rw [hdone, done_eq, Host.Outcome.next.injEq] at ht
  subst ht
  exact ⟨by rw [hta], fun k d h => hlegal _ h, fun k h => hlegal _ h⟩

end Sys2Proof.Machine
end

section
/-! # Windows of sequence numbers (`40_seq_arith.md` R124 to R126)

`seq_dist(s, b)` is the one offset below `SEQ_LEN` that leads from `b` to `s`. Every window is a range of that offset. -/

namespace Sys2Proof.Machine

variable {L s b n : Nat}

theorem seqDist_seqAdd (hb : b < L) (hn : n < L) : seqDist L (seqAdd L b n) b = n := by
  rw [seqDist_eq (seqAdd_lt (by omega) b n) hb, seqAdd_eq hb hn.le]
  split_ifs <;> omega

theorem seqAdd_seqDist (hs : s < L) (hb : b < L) : seqAdd L b (seqDist L s b) = s := by
  rw [seqAdd_eq hb (seqDist_lt (by omega) s b).le, seqDist_eq hs hb]
  split_ifs <;> omega

theorem seqDist_eq_iff (hs : s < L) (hb : b < L) (hn : n < L) : seqDist L s b = n ↔ s = seqAdd L b n := by
  constructor
  · rintro rfl
    exact (seqAdd_seqDist hs hb).symm
  · rintro rfl
    exact seqDist_seqAdd hb hn

/-- Going back by `n` is going on by `SEQ_LEN - n`. -/
theorem seqDist_eq_seqAdd_sub (hb : b < L) (hn : n < L) : seqDist L b n = seqAdd L b (L - n) := by
  rw [seqDist_eq hb hn, seqAdd_eq hb (Nat.sub_le L n)]
  split_ifs <;> omega

theorem seqDist_lt_iff {len : Nat} (hs : s < L) (hb : b < L) (hlen : len ≤ L) :
    seqDist L s b < len ↔ ∃ i < len, s = seqAdd L b i := by
  constructor
  · intro h
    exact ⟨seqDist L s b, h, (seqAdd_seqDist hs hb).symm⟩
  · rintro ⟨i, hi, rfl⟩
    rwa [seqDist_seqAdd hb (hi.trans_le hlen)]

/-- The numbers `b-W, ..., b-1` are those at the offsets `L-W, ..., L-1`. -/
theorem le_seqDist_iff {W : Nat} (hs : s < L) (hb : b < L) (hW : W < L) :
    L - W ≤ seqDist L s b ↔ ∃ i, 1 ≤ i ∧ i ≤ W ∧ s = seqDist L b i := by
  constructor
  · intro h
    have hlt : seqDist L s b < L := seqDist_lt (by omega) s b
    refine ⟨L - seqDist L s b, by omega, by omega, ?_⟩
    rw [seqDist_eq_seqAdd_sub hb (by omega), Nat.sub_sub_self hlt.le, seqAdd_seqDist hs hb]
  · rintro ⟨i, hi1, hiW, rfl⟩
    rw [seqDist_eq_seqAdd_sub hb (by omega), seqDist_seqAdd hb (by omega)]
    omega

/-- Settles O14: the test compares the offset of `s` from `b` with `len`. -/
theorem inWindowIsTheRunOfNumbers : Obligations.InWindowIsTheRunOfNumbers := by
  intro L s b len hs hb hlen
  rw [inWindow, decide_eq_true_iff, seqDist_lt_iff hs hb hlen]

/-- Settles O15: `seq_prev(b)` goes back by one, that is, on by `SEQ_LEN - 1`. -/
theorem previousNumberIsTheFarthest : Obligations.PreviousNumberIsTheFarthest := by
  intro W a b hW ha hb
  refine ⟨seqPrev_eq (by omega) hb, ?_⟩
  rw [seqPrev, seqDist_eq_seqAdd_sub hb (by omega), seqDist_eq_iff ha hb (by omega)]

/-- Settles O16: the current window holds the offsets below `W`, the previous one those from `2W - W` on. -/
theorem currentAndPreviousWindowPartitionTheSpace : Obligations.CurrentAndPreviousWindowPartitionTheSpace := by
  intro W s r hs hr
  rw [← seqDist_lt_iff hs hr (by omega), ← le_seqDist_iff hs hr (by omega)]
  omega

end Sys2Proof.Machine
end

section
/-! # The closed form of `ARQ-CK32` (`41_checksum_frame.md` R133) -/

namespace Sys2Proof.Machine

theorem ckStep_ofNat (a b : Nat) (x : Byte) :
    ckStep (BitVec.ofNat 16 a, BitVec.ofNat 16 b) x =
      (BitVec.ofNat 16 (a + x.toNat), BitVec.ofNat 16 (b + (a + x.toNat))) := by
  simp only [ckStep, BitVec.ofNat_add, BitVec.ofNat_toNat]

/-- The accumulators over a string, from any start `(a, b)`. Every byte adds the running `a` to `b`, so the start `a` counts once
per byte in `b`, and `B[i]` counts `N - i` times: in its own step and in each one after it. -/
theorem foldl_ckStep_ofNat (B : List Byte) (a b : Nat) :
    B.foldl ckStep (BitVec.ofNat 16 a, BitVec.ofNat 16 b) =
      (BitVec.ofNat 16 (a + (B.map (·.toNat)).sum),
        BitVec.ofNat 16 (b + B.length * a + (B.mapIdx fun i x => (B.length - i) * x.toNat).sum)) := by
  induction B generalizing a b with
  | nil => simp
  | cons x xs ih =>
    rw [List.foldl_cons, ckStep_ofNat, ih]
    simp only [List.map_cons, List.mapIdx_cons, List.sum_cons, List.length_cons, Nat.add_sub_add_right, Nat.sub_zero]
    congr 2 <;> ring

/-- Settles O9: the accumulators start at `a = 1`, `b = 0`. -/
theorem checksumClosedForm : Obligations.ChecksumClosedForm := by
  intro B
  rw [arqCk32, foldl_ckStep_ofNat]
  simp only [Nat.mul_one, Nat.zero_add]

end Sys2Proof.Machine
end

section
/-! # The Go-Back-N sender (`43_gbn_sender.md` R166, R168, R170) and the `SEND` of the FIFO senders (`47_tcp_sender.md` R222) -/

namespace Sys2Proof.Machine

/-! ## The restart of the base timer -/

theorem restartTimer_eq (T : Word32) (r : Sender) :
    restartTimer T r = if 0 < r.count then [.tmrStart r.base T] else [] := by
  rcases restartTimer_cases T r with ⟨hwin, h⟩ | ⟨hwin, h⟩
  · rw [h, if_neg (by simp [Sender.count, hwin])]
  · rw [h, if_pos (show 0 < r.count from List.length_pos_iff.2 hwin)]

theorem applyTimerActions_restartTimer (T : Word32) (r : Sender) (ta : List TimerCell) :
    applyTimerActions (restartTimer T r) ta = if 0 < r.count then timerStart r.base T ta else ta := by
  rw [restartTimer_eq]
  split <;> rfl

/-- The window keeps an entry after a pop of `n` exactly when it held more than `n`. -/
theorem swPopFront_count_pos (L n : Nat) (r : Sender) : 0 < (swPopFront L n r).count ↔ n < r.count := by
  simp [Sender.count]

/-- The timer of the base is stopped, and that of the window `r` started if `r` is not empty (R168). -/
theorem done_stop_restart (d : Disposition) (r : Sender) (s : State) :
    done .sender d (.tmrStop s.snd.base :: restartTimer s.straps.timeoutMs r) (s.withSnd r) =
      .next { s with
        snd := r
        ta := if 0 < r.count then timerStart r.base s.straps.timeoutMs (timerStop s.snd.base s.ta)
          else timerStop s.snd.base s.ta
        out := ⟨some .sender,
          .tmrStop s.snd.base :: (if 0 < r.count then [.tmrStart r.base s.straps.timeoutMs] else []), some d⟩ } := by
  rw [done_eq, applyTimerActions_cons, applyTimerActions_restartTimer, restartTimer_eq]
  rfl

/-! ## `GBN.ACK` -/

section

variable {f : Frame} {s : State}

theorem execGbnAck_of_error {d : Disposition} (h : readAcknum s.straps f = .error d) :
    execGbnAck f s = raise .sender d s := by
  rw [execGbnAck, h]

variable {a n : Nat} (ha : readAcknum s.straps f = .ok a)
  (hn : n = seqDist s.straps.seqLen (seqInc s.straps.seqLen a) s.snd.base)
include ha hn

/-- The ACK covers `n` entries, and the window holds as many. -/
theorem execGbnAck_of_covered (h : n ≤ s.snd.count) :
    execGbnAck f s = done .sender (if n = 0 then .dupAck else .ok)
      (.tmrStop s.snd.base :: restartTimer s.straps.timeoutMs (swPopFront s.straps.seqLen n s.snd))
      (s.withSnd (swPopFront s.straps.seqLen n s.snd)) := by
  subst hn
  simp only [execGbnAck, ha, if_pos h]

/-- The ACK reaches past the entries of the window. -/
theorem execGbnAck_of_uncovered (h : s.snd.count < n) :
    execGbnAck f s = done .sender .staleAck (.tmrStop s.snd.base :: restartTimer s.straps.timeoutMs s.snd)
      (s.withSnd s.snd) := by
  subst hn
  simp only [execGbnAck, ha, if_neg h.not_ge]

end

/-- Settles O23: the validator's answer selects the branch, a valid ACK ends with `done_stop_restart`, and going on from the base
by `n` leads to the number after `a`. -/
theorem gbnAckResult : Obligations.GbnAckResult := by
  intro s f
  refine ⟨fun hck => execGbnAck_of_error (readField_corrupt hck),
    fun hck hrange => execGbnAck_of_error (readField_badField hck hrange), fun a n hck ha hlt hn => ?_⟩
  have hread : readAcknum s.straps f = .ok a := readField_ok hck ha hlt
  refine ⟨fun hle => ?covered, fun hgt => ?uncovered, fun hbase => ?base⟩
  case covered =>
    have h := (execGbnAck_of_covered hread hn hle).trans (done_stop_restart ..)
    simp only [swPopFront_count_pos] at h
    exact h
  case uncovered => exact (execGbnAck_of_uncovered hread hn hgt).trans (done_stop_restart ..)
  case base =>
    rw [hn, seqAdd_seqDist (seqInc_lt s.straps.seqLen_pos a) hbase]
    rfl

/-! ## `GBN.SEND` and `TCP.SEND` -/

/-- In a window of legal shape the next packet is the oldest exactly when there is no other. -/
theorem SenderShape.base_eq_next_iff {c : Straps} {r : Sender} (h : SenderShape c r) :
    r.base = r.nextseqnum ↔ r.count = 0 := by
  have hcount : r.count < c.seqLen := h.count_le.trans_lt c.windowLen_lt_seqLen
  rw [h.next_eq]
  constructor
  · intro heq
    exact seqAdd_inj h.base_lt hcount c.seqLen_pos (heq.symm.trans (seqAdd_zero h.base_lt).symm)
  · intro hzero
    rw [hzero, seqAdd_zero h.base_lt]

theorem sendFifo_of_full (m : List Byte) {s : State} (h : s.snd.count = s.straps.windowLen) :
    sendFifo m s = .next { s with out := ⟨some .sender, [], some .windowFull⟩ } := by
  rcases sendFifo_cases m s with ⟨-, hsend⟩ | ⟨hroom, -⟩
  · exact hsend.trans (raise_eq ..)
  · exact absurd h hroom

theorem sendFifo_of_room (m : List Byte) {s : State} (h : s.snd.count ≠ s.straps.windowLen) :
    sendFifo m s = .next { s with
      snd := { s.snd with
        nextseqnum := (s.snd.nextseqnum + 1) % s.straps.seqLen
        win := s.snd.win ++ [⟨mkData s.straps s.snd.nextseqnum m, false⟩] }
      ta := if s.snd.base = s.snd.nextseqnum then timerStart s.snd.base s.straps.timeoutMs s.ta else s.ta
      out := ⟨some .sender,
        if s.snd.base = s.snd.nextseqnum
          then [.txData (mkData s.straps s.snd.nextseqnum m), .tmrStart s.snd.base s.straps.timeoutMs]
          else [.txData (mkData s.straps s.snd.nextseqnum m)],
        some .ok⟩ } := by
  rcases sendFifo_cases m s with ⟨hfull, -⟩ | ⟨-, hsend⟩
  · exact absurd hfull h
  · rw [hsend, done_eq]
    split_ifs <;> rfl

/-- Settles O21: both instructions are `sendFifo`. -/
theorem fifoSendResult : Obligations.FifoSendResult := by
  rintro s m i (rfl | rfl) <;>
  exact ⟨sendFifo_of_full m, sendFifo_of_room m, SenderShape.base_eq_next_iff⟩

/-! ## `GBN.TIMEOUT` -/

section

variable {k : Word32} {s : State}

theorem execGbnTimeout_of_spurious (h : s.snd.count = 0 ∨ k.toNat ≠ s.snd.base) :
    execGbnTimeout k s = .next { s with out := ⟨some .sender, [], some .spuriousTimeout⟩ } := by
  rcases execGbnTimeout_cases k s with ⟨-, htimeout⟩ | ⟨hwin, hk, -⟩
  · exact htimeout.trans (raise_eq ..)
  · rcases h with hzero | hkey
    · exact absurd (List.length_eq_zero_iff.1 hzero) hwin
    · exact absurd hk hkey

theorem execGbnTimeout_of_base (h : s.snd.count ≠ 0) (hk : k.toNat = s.snd.base) :
    execGbnTimeout k s = .next { s with
      ta := timerStart s.snd.base s.straps.timeoutMs (timerStop s.snd.base s.ta)
      out := ⟨some .sender,
        [.tmrStop s.snd.base, .tmrStart s.snd.base s.straps.timeoutMs] ++ s.snd.win.map fun e => .txData e.pkt,
        some .ok⟩ } := by
  rcases execGbnTimeout_cases k s with ⟨hwin | hkey, -⟩ | ⟨-, -, htimeout⟩
  · exact absurd (List.length_eq_zero_iff.2 hwin) h
  · exact absurd hk hkey
  · rw [htimeout, done_eq, hk, applyTimerActions_cons, applyTimerActions_cons, applyTimerActions_txData]
    rfl

end

/-- The data frames of a restart followed by transmissions are the transmitted packets, in order. -/
theorem dataFrames_restart_retransmit (e : Option Engine) (k : Nat) (T : Word32) (l : List Entry) (d : Option Disposition) :
    Report.dataFrames ⟨e, [.tmrStop k, .tmrStart k T] ++ l.map fun x => .txData x.pkt, d⟩ = l.map (·.pkt) := by
  simp [Report.dataFrames, List.filterMap_map]

/-- Settles O24: a timeout is spurious or restarts the timer and retransmits the window, and the frames of that report are
counted by the window's entries. -/
theorem gbnTimeoutResult : Obligations.GbnTimeoutResult := by
  intro s k
  refine ⟨execGbnTimeout_of_spurious, fun hcount hk => ⟨_, execGbnTimeout_of_base hcount hk, rfl, ?_⟩⟩
  have hframes := dataFrames_restart_retransmit (some .sender) s.snd.base s.straps.timeoutMs s.snd.win (some .ok)
  exact ⟨hframes, by rw [hframes, List.length_map, Sender.count]⟩

end Sys2Proof.Machine
end

section
/-! # The in-order receivers (`44_gbn_receiver.md` R181, `48_tcp_receiver.md` R241) -/

namespace Sys2Proof.Machine

section

variable {f : Frame} {s : State}

/-- A frame that the validator rejects is answered by the cached ACK. -/
theorem receiveInOrder_of_error {d : Disposition} (h : readSeqnum s.straps f = .error d) :
    receiveInOrder f s = .next { s with out := ⟨some .receiver, [.txAck s.rcv.lastAck], some d⟩ } := by
  simp only [receiveInOrder, h]
  rfl

/-- A number other than the expected one is answered by the cached ACK. -/
theorem receiveInOrder_of_unexpected {q : Nat} (h : readSeqnum s.straps f = .ok q) (hq : q ≠ s.rcv.base) :
    receiveInOrder f s = .next { s with out := ⟨some .receiver, [.txAck s.rcv.lastAck], some .outOfOrder⟩ } := by
  simp only [receiveInOrder, h, if_neg hq]
  rfl

/-- The expected number is delivered and acknowledged, and the base moves past it. -/
theorem receiveInOrder_of_expected (h : readSeqnum s.straps f = .ok s.rcv.base) :
    receiveInOrder f s = .next { s with
      rcv := { s.rcv with
        base := (s.rcv.base + 1) % s.straps.seqLen
        lastAck := mkAck s.straps s.rcv.base }
      out := ⟨some .receiver, [.deliver f.payload, .txAck (mkAck s.straps s.rcv.base)], some .ok⟩ } := by
  simp only [receiveInOrder, h, if_true]
  rfl

end

/-- Settles O25: both instructions are `receiveInOrder`, and the validator's answer selects its branch. -/
theorem inOrderDataResult : Obligations.InOrderDataResult := by
  intro s f i hi
  have hexec : exec i s = receiveInOrder f s := by rcases hi with rfl | rfl <;> rfl
  rw [hexec]
  refine ⟨fun hck => ?corrupt, fun hck hrange => ?badField, fun hck hrange hne => ?outOfOrder, fun hck hbase hlt => ?expected⟩
  case corrupt => exact receiveInOrder_of_error (readField_corrupt hck)
  case badField => exact receiveInOrder_of_error (readField_badField hck hrange)
  case outOfOrder =>
    obtain ⟨hnonneg, hlt⟩ := hrange
    obtain ⟨q, hq⟩ := Int.eq_ofNat_of_zero_le hnonneg
    rw [hq] at hlt hne
    exact receiveInOrder_of_unexpected (readField_ok hck hq (Int.ofNat_lt.1 hlt)) (mt (congrArg Nat.cast) hne)
  case expected => exact receiveInOrder_of_expected (readField_ok hck hbase hlt)

end Sys2Proof.Machine
end

section
/-! # The selective-repeat sender (`45_sr_sender.md` R192, R193, R195) -/

namespace Sys2Proof.Machine

/-! ## `SR.ACK` -/

/-- Marking the entry at offset `i` puts the marked entry in its place. -/
theorem swSetAcked_win_of_entry {i : Nat} {r : Sender} {e : Entry} (he : r.win[i]? = some e) :
    (swSetAcked i r).win = r.win.set i ⟨e.pkt, true⟩ := by
  rw [swSetAcked_win, List.modify_eq_set_getElem?, he]
  rfl

/-- `slideLoop_eq` on the sender's registers (R152). -/
theorem swSlideAcked_eq {L : Nat} {r : Sender} (hb : r.base < L) :
    swSlideAcked L r =
      { r with base := seqAdd L r.base (ackedPrefix r.win).length, win := r.win.drop (ackedPrefix r.win).length } := by
  rw [swSlideAcked, slideLoop_eq r.base hb]

section

variable {f : Frame} {s : State}

theorem execSrAck_of_error {d : Disposition} (h : readAcknum s.straps f = .error d) :
    execSrAck f s = .next { s with out := ⟨some .sender, [], some d⟩ } := by
  rw [execSrAck, h]
  rfl

variable {a : Nat} (ha : readAcknum s.straps f = .ok a)
include ha

/-- The number lies outside the window. -/
theorem execSrAck_of_outside (h : s.snd.count ≤ seqDist s.straps.seqLen a s.snd.base) :
    execSrAck f s = .next { s with out := ⟨some .sender, [], some .staleAck⟩ } := by
  simp only [execSrAck, ha, swGet, swIndexOf, List.getElem?_eq_none h]
  rfl

variable {e : Entry} (he : s.snd.win[seqDist s.straps.seqLen a s.snd.base]? = some e)
include he

/-- The number is that of an entry acknowledged before. -/
theorem execSrAck_of_acked (hacked : e.acked = true) :
    execSrAck f s = .next { s with out := ⟨some .sender, [], some .dupAck⟩ } := by
  simp only [execSrAck, ha, swGet, swIndexOf, he, if_pos hacked]
  rfl

/-- The number is that of an entry not yet acknowledged. -/
theorem execSrAck_of_unacked (hacked : e.acked = false) :
    execSrAck f s = .next { s with
      snd := swSlideAcked s.straps.seqLen (swSetAcked (seqDist s.straps.seqLen a s.snd.base) s.snd)
      ta := timerStop a s.ta
      out := ⟨some .sender, [.tmrStop a], some .ok⟩ } := by
  simp only [execSrAck, ha, swGet, swIndexOf, he, hacked, Bool.false_eq_true, if_false]
  rfl

end

/-- Settles O26: the validator's answer selects the branch, then the entry at the offset of `a`; the window after the mark is
slid by `swSlideAcked_eq`. -/
theorem srAckResult : Obligations.SrAckResult := by
  intro s f
  refine ⟨fun hck => execSrAck_of_error (readField_corrupt hck),
    fun hck hrange => execSrAck_of_error (readField_badField hck hrange), ?_⟩
  rintro a idx hck ha hlt rfl
  have hread : readAcknum s.straps f = .ok a := readField_ok hck ha hlt
  refine ⟨execSrAck_of_outside hread, fun e he => execSrAck_of_acked hread he, ?unacked⟩
  rintro e he hacked hbase marked j rfl rfl
  refine (execSrAck_of_unacked hread he hacked).trans ?_
  rw [swSlideAcked_eq (r := swSetAcked _ s.snd) hbase, swSetAcked_win_of_entry he]
  rfl

/-! ## `SR.SEND` -/

/-- Settles O22: the two cases of `execSrSend_cases`. -/
theorem srSendResult : Obligations.SrSendResult := by
  intro s m
  rcases execSrSend_cases m s with ⟨hfull, hsend⟩ | ⟨hroom, hsend⟩
  · exact ⟨fun _ => hsend.trans (raise_eq ..), fun hroom => absurd hfull hroom⟩
  · exact ⟨fun hfull => absurd hfull hroom, fun _ => hsend.trans (done_eq ..)⟩

/-! ## `SR.TIMEOUT` -/

section

variable {k : Word32} {s : State}

/-- The key names no entry that waits for its ACK. -/
theorem execSrTimeout_of_spurious
    (h : s.straps.seqLen ≤ k.toNat ∨ s.snd.count ≤ seqDist s.straps.seqLen k.toNat s.snd.base ∨
      ∃ e, s.snd.win[seqDist s.straps.seqLen k.toNat s.snd.base]? = some e ∧ e.acked = true) :
    execSrTimeout k s = .next { s with out := ⟨some .sender, [], some .spuriousTimeout⟩ } := by
  rcases execSrTimeout_cases k s with htimeout | ⟨e, hk, he, hacked, -⟩
  · exact htimeout.trans (raise_eq ..)
  · rcases h with hkey | hout | ⟨e', he', hacked'⟩
    · exact absurd hk hkey.not_gt
    · rw [List.getElem?_eq_none hout] at he
      contradiction
    · rw [he, Option.some_inj] at he'
      rw [he', hacked'] at hacked
      contradiction

/-- The key names an entry that waits for its ACK. -/
theorem execSrTimeout_of_unacked {e : Entry} (hk : k.toNat < s.straps.seqLen)
    (he : s.snd.win[seqDist s.straps.seqLen k.toNat s.snd.base]? = some e) (hacked : e.acked = false) :
    execSrTimeout k s = .next { s with
      ta := timerStart k.toNat s.straps.timeoutMs s.ta
      out := ⟨some .sender, [.tmrStart k.toNat s.straps.timeoutMs, .txData e.pkt], some .ok⟩ } := by
  simp only [execSrTimeout, if_neg hk.not_ge, swGet, swIndexOf, he, hacked, Bool.false_eq_true, if_false]
  rfl

end

/-- Settles O27: the key names an entry that waits for its ACK, or the timeout is spurious. -/
theorem srTimeoutResult : Obligations.SrTimeoutResult := by
  rintro s k idx rfl
  exact ⟨execSrTimeout_of_spurious, fun _ => execSrTimeout_of_unacked⟩

end Sys2Proof.Machine
end

section
/-! # The selective-repeat receiver (`46_sr_receiver.md` R206) -/

namespace Sys2Proof.Machine

/-- `deliverLoop_eq` by the number `j` of received slots at the front, in a window that fits the loop's bound (R159, R209). -/
theorem deliverLoop_eq_take {L n j : Nat} {r : Receiver} (hb : r.base < L) (hn : r.slots.length ≤ n)
    (hj : j = (receivedPrefix r.slots).length) :
    deliverLoop L n r =
      (((r.slots.take j).filterMap id).map fun g => Action.deliver g.payload,
        { r with base := seqAdd L r.base j, slots := r.slots.drop j ++ List.replicate j none }) := by
  have hprefix : receivedPrefix r.slots <+: r.slots := List.takeWhile_prefix _
  have htake : r.slots.take j = receivedPrefix r.slots := by rw [hj, ← List.prefix_iff_eq_take.1 hprefix]
  rw [deliverLoop_eq (Nat.zero_lt_of_lt hb) n r hb (hprefix.length_le.trans hn), htake, List.map_filterMap, hj]
  rfl

/-! ## The four ends of `SR.DATA` -/

section

variable {f : Frame} {s : State}

theorem execSrData_of_error {d : Disposition} (h : readSeqnum s.straps f = .error d) :
    execSrData f s = .next { s with out := ⟨some .receiver, [], some d⟩ } := by
  rw [execSrData, h]
  rfl

variable {q : Nat} (hq : readSeqnum s.straps f = .ok q)
include hq

/-- The number lies outside the window. -/
theorem execSrData_of_outside (h : s.straps.windowLen ≤ seqDist s.straps.seqLen q s.rcv.base) :
    execSrData f s = .next { s with
      rcv := { s.rcv with lastAck := mkAck s.straps q }
      out := ⟨some .receiver, [.txAck (mkAck s.straps q)], some .oldData⟩ } := by
  simp only [execSrData, hq, rwIndexOf, h.not_gt, decide_false, Bool.false_and, Bool.false_eq_true, if_false]
  rfl

variable (hin : seqDist s.straps.seqLen q s.rcv.base < s.straps.windowLen)
include hin

/-- The number is that of a slot received before. -/
theorem execSrData_of_received {g : Frame} (hg : s.rcv.slots[seqDist s.straps.seqLen q s.rcv.base]? = some (some g)) :
    execSrData f s = .next { s with
      rcv := { s.rcv with lastAck := mkAck s.straps q }
      out := ⟨some .receiver, [.txAck (mkAck s.straps q)], some .dupData⟩ } := by
  have hget : rwReceived (seqDist s.straps.seqLen q s.rcv.base) s.rcv = true := by simp [rwReceived, rwGet, hg]
  simp only [execSrData, hq, rwIndexOf, hget, hin, Bool.not_true, Bool.and_false, Bool.false_eq_true, if_false, if_true]
  rfl

/-- The number is that of a blank slot. -/
theorem execSrData_of_blank (hg : s.rcv.slots[seqDist s.straps.seqLen q s.rcv.base]? = some none)
    {acts : List Action} {r : Receiver}
    (hloop : deliverLoop s.straps.seqLen s.straps.windowLen
      { s.rcv with
        lastAck := mkAck s.straps q
        slots := s.rcv.slots.set (seqDist s.straps.seqLen q s.rcv.base) (some f) } = (acts, r)) :
    execSrData f s = .next { s with
      rcv := r, out := ⟨some .receiver, .txAck (mkAck s.straps q) :: acts, some .ok⟩ } := by
  have hget : rwReceived (seqDist s.straps.seqLen q s.rcv.base) s.rcv = false := by simp [rwReceived, rwGet, hg]
  simp only [execSrData, hq, rwIndexOf, hget, hin, decide_true, Bool.not_false, Bool.and_true, if_true, rwStore]
  rw [done_of_noTimer (txAck_deliverLoop_noTimer _ _ _ _), hloop]
  rfl

end

/-- Settles O28: the validator's answer selects the branch, then the slot at the offset of `q`; after the store the loop
delivers the received prefix by `deliverLoop_eq_take`. -/
theorem srDataResult : Obligations.SrDataResult := by
  intro s f
  refine ⟨fun hck => execSrData_of_error (readField_corrupt hck),
    fun hck hrange => execSrData_of_error (readField_badField hck hrange), ?_⟩
  rintro q idx hck hq hlt rfl
  have hread : readSeqnum s.straps f = .ok q := readField_ok hck hq hlt
  refine ⟨execSrData_of_outside hread, fun hin ⟨g, hg⟩ => execSrData_of_received hread hin hg, ?blank⟩
  rintro hin hblank hbase hslots stored j rfl hj
  exact execSrData_of_blank hread hin hblank
    (deliverLoop_eq_take hbase (List.length_set.trans hslots).le hj)

end Sys2Proof.Machine
end

section
/-! # The TCP-like sender (`47_tcp_sender.md` R221, R223 to R226) -/

namespace Sys2Proof.Machine

section

variable {s : State}

/-! ## The counted duplicate (R224) -/

theorem countDuplicate_of_below (hdup : s.snd.dup + 1 ≠ Config.dupThresh) :
    countDuplicate s = .next { s with
      snd := { s.snd with dup := s.snd.dup + 1 }, out := ⟨some .sender, [], some .dupAck⟩ } := by
  rw [countDuplicate, if_neg hdup]
  rfl

theorem countDuplicate_of_threshold_head {e : Entry} (hdup : s.snd.dup + 1 = Config.dupThresh)
    (he : s.snd.win.head? = some e) :
    countDuplicate s = .next { s with
      snd := { s.snd with dup := 0 }, out := ⟨some .sender, [.txData e.pkt], some .fastRetx⟩ } := by
  rw [countDuplicate, if_pos hdup, swGet, ← List.head?_eq_getElem?, he]
  rfl

theorem countDuplicate_of_threshold_empty (hdup : s.snd.dup + 1 = Config.dupThresh) (hwin : s.snd.win = []) :
    countDuplicate s = .next { s with
      snd := { s.snd with dup := 0 }, out := ⟨some .sender, [], some .dupAck⟩ } := by
  rw [countDuplicate, if_pos hdup, swGet, hwin]
  rfl

/-! ## `TCP.ACK` -/

theorem count_clearDup (r : Sender) : Sender.count { r with dup := 0 } = r.count := rfl

section

variable {f : Frame}

theorem execTcpAck_of_error {d : Disposition} (h : readAcknum s.straps f = .error d) :
    execTcpAck f s = raise .sender d s := by
  rw [execTcpAck, h]

variable {a : Nat} (ha : readAcknum s.straps f = .ok a)
include ha

/-- New progress (R223): the number is that of an entry of the window, which is popped with all before it. -/
theorem execTcpAck_of_inside (h : seqDist s.straps.seqLen a s.snd.base < s.snd.count) :
    execTcpAck f s = done .sender .ok
      (.tmrStop s.snd.base :: restartTimer s.straps.timeoutMs
        { swPopFront s.straps.seqLen (seqDist s.straps.seqLen a s.snd.base + 1) s.snd with dup := 0 })
      (s.withSnd { swPopFront s.straps.seqLen (seqDist s.straps.seqLen a s.snd.base + 1) s.snd with dup := 0 }) := by
  simp only [execTcpAck, ha, if_pos h]

variable (hout : s.snd.count ≤ seqDist s.straps.seqLen a s.snd.base)
include hout

/-- The number just before the base is a duplicate (R224). -/
theorem execTcpAck_of_previous (h : seqDist s.straps.seqLen a s.snd.base = s.straps.seqLen - 1) :
    execTcpAck f s = countDuplicate s := by
  simp only [execTcpAck, ha, if_neg hout.not_gt, if_pos h]

/-- Any other number outside the window is stale (R225). -/
theorem execTcpAck_of_stale (h : seqDist s.straps.seqLen a s.snd.base ≠ s.straps.seqLen - 1) :
    execTcpAck f s = raise .sender .staleAck s := by
  simp only [execTcpAck, ha, if_neg hout.not_gt, if_neg h]

end

/-! ## `TCP.TIMEOUT` -/

section

variable {k : Word32}

theorem execTcpTimeout_of_spurious (h : s.snd.count = 0 ∨ k.toNat ≠ s.snd.base) :
    execTcpTimeout k s = .next { s with out := ⟨some .sender, [], some .spuriousTimeout⟩ } := by
  rcases execTcpTimeout_cases k s with ⟨-, htimeout⟩ | ⟨e, he, hk, -⟩
  · exact htimeout.trans (raise_eq ..)
  · rcases h with hzero | hkey
    · rw [List.length_eq_zero_iff.1 hzero] at he
      contradiction
    · exact absurd hk hkey

theorem execTcpTimeout_of_head {e : Entry} (he : s.snd.win.head? = some e) (hk : k.toNat = s.snd.base) :
    execTcpTimeout k s = .next { s with
      ta := timerStart s.snd.base s.straps.timeoutMs s.ta
      out := ⟨some .sender, [.tmrStart s.snd.base s.straps.timeoutMs, .txData e.pkt], some .ok⟩ } := by
  rw [execTcpTimeout, swGet, ← List.head?_eq_getElem?, he, hk]
  exact if_neg (not_not.2 rfl)

end

end

/-- Settles O29: the validator's answer selects the branch, then the offset of `a` from the base; new progress ends with
`done_stop_restart`, and the farthest offset is that of the number before the base. -/
theorem tcpAckResult : Obligations.TcpAckResult := by
  intro s f
  refine ⟨fun hck => execTcpAck_of_error (readField_corrupt hck),
    fun hck hrange => execTcpAck_of_error (readField_badField hck hrange), ?_⟩
  rintro a idx hck ha hlt rfl
  have hread : readAcknum s.straps f = .ok a := readField_ok hck ha hlt
  refine ⟨fun hin => ?progress,
    fun hout hprev hdup => (execTcpAck_of_previous hread hout hprev).trans (countDuplicate_of_below hdup),
    fun hout hprev hdup e he =>
      (execTcpAck_of_previous hread hout hprev).trans (countDuplicate_of_threshold_head hdup he),
    fun hout hprev hdup hwin =>
      (execTcpAck_of_previous hread hout hprev).trans (countDuplicate_of_threshold_empty hdup hwin),
    fun hout hne => execTcpAck_of_stale hread hout hne,
    fun hbase => (previousNumberIsTheFarthest s.straps.windowLen a s.snd.base s.straps.windowLen_pos hlt hbase).2.symm⟩
  case progress =>
    have h := (execTcpAck_of_inside hread hin).trans (done_stop_restart ..)
    simp only [count_clearDup, swPopFront_count_pos] at h
    exact h

/-- Settles O30: the head is there and the key is the base, or the timeout is spurious. -/
theorem tcpTimeoutResult : Obligations.TcpTimeoutResult := by
  intro s k
  exact ⟨execTcpTimeout_of_spurious, fun _ => execTcpTimeout_of_head⟩

end Sys2Proof.Machine
end

section
/-! # Timer commands, cell by cell (`60_exceptions.md` R263 to R265)

`TMR_START(k, d)` overwrites the cell of `k`, whatever stood there. `TMR_STOP(k)` clears its running bit, and so leaves a
cell as it is that does not run. -/

namespace Sys2Proof.Machine

variable {ta : List TimerCell} {j k : Nat}

theorem TimerCell.pending_of_stopped {c : TimerCell} (h : c.run = false) : c.pending = false := by
  rw [TimerCell.pending, h, Bool.false_and]

theorem TimerCell.pending_of_remaining {c : TimerCell} (h : c.remaining ≠ 0#32) : c.pending = false := by
  rw [TimerCell.pending, decide_eq_false h, Bool.and_false]

theorem running_eq_false_iff : running k ta = false ↔ ∀ c, ta[k]? = some c → c.run = false := by
  unfold running
  cases ta[k]? <;> simp

theorem timerStart_getElem?_self (d : Word32) (hk : k < ta.length) : (timerStart k d ta)[k]? = some ⟨true, d⟩ :=
  List.getElem?_set_self hk

theorem timerStart_getElem?_ne (d : Word32) (h : j ≠ k) : (timerStart k d ta)[j]? = ta[j]? :=
  List.getElem?_set_ne h.symm

theorem timerStop_getElem?_ne (h : j ≠ k) : (timerStop k ta)[j]? = ta[j]? :=
  List.getElem?_modify_ne _ _ h.symm

theorem timerStop_of_not_running (h : running k ta = false) : timerStop k ta = ta := by
  refine List.ext_getElem? fun j => ?_
  by_cases hj : j = k
  · subst hj
    rw [timerStop, List.getElem?_modify_eq]
    cases hc : ta[j]? with
    | none => rfl
    | some c =>
      have hrun : c.run = false := running_eq_false_iff.1 h c hc
      simp [← hrun]
  · exact timerStop_getElem?_ne hj

theorem timerStop_timerStop (k : Nat) (ta : List TimerCell) : timerStop k (timerStop k ta) = timerStop k ta :=
  timerStop_of_not_running (by simp [running_timerStop])

theorem timerStart_timerStart (k : Nat) (d d' : Word32) (ta : List TimerCell) :
    timerStart k d (timerStart k d' ta) = timerStart k d ta :=
  List.set_set ..

theorem timerStart_timerStop (k : Nat) (d : Word32) (ta : List TimerCell) :
    timerStart k d (timerStop k ta) = timerStart k d ta := by
  refine List.ext_getElem? fun j => ?_
  by_cases hj : j = k
  · subst hj
    simp [timerStart, timerStop, List.getElem?_set]
  · rw [timerStart_getElem?_ne d hj, timerStart_getElem?_ne d hj, timerStop_getElem?_ne hj]

/-- Settles O40: the cell of `k` is overwritten by `⟨true, d⟩`, which is pending for no `d` but 0. -/
theorem timerStartSetsOneTimer : Obligations.TimerStartSetsOneTimer := by
  intro ta k d hk
  have hcell := timerStart_getElem?_self d hk
  refine ⟨hcell, by simp [running_timerStart, hk], fun hd c hc => ?_, fun j => timerStart_getElem?_ne d,
    timerStart_length k d ta⟩
  cases hcell.symm.trans hc
  exact TimerCell.pending_of_remaining hd

/-- Settles O41: after the stop the cell of `k` does not run, and a cell that does not run is not pending. -/
theorem timerStopClearsOneTimer : Obligations.TimerStopClearsOneTimer := by
  intro ta k
  have hstopped : running k (timerStop k ta) = false := by simp [running_timerStop]
  exact ⟨hstopped, fun j => timerStop_getElem?_ne, timerStop_length k ta, timerStop_of_not_running,
    fun c hc => TimerCell.pending_of_stopped (running_eq_false_iff.1 hstopped c hc)⟩

/-- Settles O42: a stop of a stopped timer is a no-op, and a start overwrites what an earlier start or stop left. -/
theorem timerCommandsAreIdempotent : Obligations.TimerCommandsAreIdempotent := by
  intro ta k d
  exact ⟨timerStop_timerStop k ta, timerStart_timerStart k d d ta, timerStart_timerStop k d ta⟩

end Sys2Proof.Machine
end

section
/-! # Event words: encoding and decoding (`30_encoding.md` R95 to R108, R118, R119) -/

namespace Sys2Proof

/-! ## A body is three integers and a payload place -/

/-- The body of a word in the parts the decoder reads: three integers, then the payload place (R96 to R99). -/
def bodyOf (i0 i1 i2 : Word32) (p : List Byte) : List Byte := be32Bytes i0 ++ be32Bytes i1 ++ be32Bytes i2 ++ p

@[simp] theorem bodyOf_length (i0 i1 i2 : Word32) (p : List Byte) : (bodyOf i0 i1 i2 p).length = 12 + p.length :=
  Frame.toBytes_length ⟨i0, i1, i2, p⟩

/-- Four bytes or more start with an integer. -/
theorem exists_eq_be32Bytes_append {n : Nat} : {l : List Byte} → l.length = 4 + n → ∃ v r, l = be32Bytes v ++ r ∧ r.length = n
  | a :: b :: c :: d :: r, h => ⟨be32 a b c d, r, by simp [be32Bytes_be32], by simp only [List.length_cons] at h; omega⟩
  | [], h | [_], h | [_, _], h | [_, _, _], h => by simp only [List.length_cons, List.length_nil] at h; omega

/-- Every body of the port's width has these parts. -/
theorem exists_eq_bodyOf {P : Nat} {body : List Byte} (h : body.length = 12 + P) :
    ∃ i0 i1 i2 p, body = bodyOf i0 i1 i2 p ∧ p.length = P := by
  obtain ⟨i0, l0, rfl, h0⟩ := exists_eq_be32Bytes_append (n := 8 + P) (by omega : body.length = 4 + (8 + P))
  obtain ⟨i1, l1, rfl, h1⟩ := exists_eq_be32Bytes_append (n := 4 + P) (by omega : l0.length = 4 + (4 + P))
  obtain ⟨i2, p, rfl, hp⟩ := exists_eq_be32Bytes_append h1
  exact ⟨i0, i1, i2, p, by simp only [bodyOf, List.append_assoc], hp⟩

/-- The body of a well-formed instruction has parts from which its operand is cut again. -/
theorem Instr.exists_body_eq_bodyOf {P : Nat} {i : Instr} (h : i.wf P = true) :
    ∃ i0 i1 i2 p, i.body P = bodyOf i0 i1 i2 p ∧ p.length = P ∧ Instr.ofBody i.variant i.kind i0 i1 i2 p = i := by
  cases i with
  | gbnSend m | srSend m | tcpSend m => exact ⟨0, 0, 0, m, sendBody_parts m, of_decide_eq_true h, rfl⟩
  | gbnAck f | srAck f | tcpAck f => exact ⟨_, _, _, f.payload, rfl, of_decide_eq_true h, rfl⟩
  | gbnTimeout k | srTimeout k | tcpTimeout k =>
    exact ⟨k, 0, 0, zeroBytes P, timeoutBody_parts k P, zeroBytes_length P, rfl⟩
  | gbnData f | srData f | tcpData f => exact ⟨_, _, _, f.payload, rfl, of_decide_eq_true h, rfl⟩

/-! ## Decoding an encoded word -/

theorem decode_encode {P : Nat} {i : Instr} (h : i.wf P = true) : decode i.variant.code P (encode P i) = .ok i := by
  obtain ⟨i0, i1, i2, p, hbody, hp, hi⟩ := i.exists_body_eq_bodyOf h
  rw [encode, hbody, bodyOf, decode_parts i.variant i.kind P i0 i1 i2 p hp, hi]

/-- Settles O1: the body is cut into the parts it was put together from. -/
theorem decodeOfEncodeIsTheInstruction : Obligations.DecodeOfEncodeIsTheInstruction :=
  fun _ _ => decode_encode

/-! ## Encoding a decoded word -/

/-- What the encoder makes of an instruction cut from parts: the same word, with zeros for the parts its kind ignores (R107). -/
theorem encode_ofBody (r : Variant) (k : EventKind) (i0 i1 i2 : Word32) (p : List Byte) :
    encode p.length (.ofBody r k i0 i1 i2 p) = k.code ::
      match k with
      | .send => bodyOf 0 0 0 p
      | .ack | .data => bodyOf i0 i1 i2 p
      | .timeout => bodyOf i0 0 0 (zeroBytes p.length) := by
  rw [encode, Instr.ofBody_kind]
  congr 1
  cases k with
  | send => cases r <;> exact sendBody_parts p
  | ack | data => cases r <;> rfl
  | timeout => cases r <;> exact timeoutBody_parts i0 p.length

/-- Settles O2: the word has the parts of `decode_ok_cases`, and the encoding has those of `encode_ofBody`. -/
theorem decodedWordIsTheEncodingUpToIgnoredBytes : Obligations.DecodedWordIsTheEncodingUpToIgnoredBytes := by
  intro v P w i h
  obtain ⟨r, k, i0, i1, i2, p, rfl, rfl, rfl, rfl⟩ := decode_ok_cases h
  refine ⟨Instr.ofBody_wf r k i0 i1 i2 p, by rw [Instr.ofBody_variant], ?_, ?_⟩
  · rw [List.length_cons, ← bodyOf, bodyOf_length]
    omega
  · rw [Instr.ofBody_kind, encode_ofBody]
    cases k with
    | send => exact ⟨rfl, rfl⟩
    | ack | timeout | data => rfl

/-! ## Which words of the port's width are refused -/

theorem Variant.ofCode_eq_none_iff {v : BitVec 2} : Variant.ofCode v = none ↔ v = 3#2 := by
  revert v
  decide

theorem EventKind.ofCode_eq_none_iff {b : Byte} : EventKind.ofCode b = none ↔ 3 < b.toNat := by
  revert b
  decide

theorem exists_variant_code {v : BitVec 2} (h : v ≠ 3#2) : ∃ r : Variant, v = r.code := by
  cases hr : Variant.ofCode v with
  | none => exact absurd (Variant.ofCode_eq_none_iff.1 hr) h
  | some r => exact ⟨r, Variant.code_of_ofCode hr⟩

theorem exists_kind_code {b : Byte} (h : b.toNat ≤ 3) : ∃ k : EventKind, b = k.code := by
  cases hk : EventKind.ofCode b with
  | none => exact absurd (EventKind.ofCode_eq_none_iff.1 hk) h.not_gt
  | some k => exact ⟨k, EventKind.code_of_ofCode hk⟩

section

variable {P : Nat} {body : List Byte} (h : body.length = 12 + P)
include h

theorem decode_reservedVariant (b : Byte) : decode 3#2 P (b :: body) = .error .reservedVariant := by
  obtain ⟨i0, i1, i2, p, rfl, hp⟩ := exists_eq_bodyOf h
  simp only [bodyOf, be32Bytes, List.cons_append, List.nil_append, decode, hp, if_true, Variant.ofCode_eq_none_iff.2 rfl]

theorem decode_reservedKind {b : Byte} (r : Variant) (hb : 3 < b.toNat) :
    decode r.code P (b :: body) = .error .reservedKind := by
  obtain ⟨i0, i1, i2, p, rfl, hp⟩ := exists_eq_bodyOf h
  simp only [bodyOf, be32Bytes, List.cons_append, List.nil_append, decode, hp, if_true, Variant.ofCode_code,
    EventKind.ofCode_eq_none_iff.2 hb]

/-- A word of a legal strap and kind decodes, whatever its body. -/
theorem exists_decode_eq_ok (r : Variant) (k : EventKind) :
    ∃ i, decode r.code P (k.code :: body) = .ok i ∧ i.variant = r ∧ i.kind = k ∧ i.wf P = true := by
  obtain ⟨i0, i1, i2, p, rfl, hp⟩ := exists_eq_bodyOf h
  exact ⟨_, decode_parts r k P i0 i1 i2 p hp, Instr.ofBody_variant .., Instr.ofBody_kind .., hp ▸ Instr.ofBody_wf ..⟩

end

/-- Settles O3: the strap selects the first branch, then the kind byte. -/
theorem portWidthWordDecodesOrIsReserved : Obligations.PortWidthWordDecodesOrIsReserved := by
  intro v P k body h
  refine ⟨fun hv => hv ▸ decode_reservedVariant h k, fun hv hk => ?reservedKind, fun hv hk => ?legal⟩
  all_goals obtain ⟨r, rfl⟩ := exists_variant_code hv
  case reservedKind => exact decode_reservedKind h r hk
  case legal =>
    obtain ⟨d, rfl⟩ := exists_kind_code hk
    obtain ⟨i, hi, rfl, rfl, hwf⟩ := exists_decode_eq_ok h r d
    exact ⟨i, hi, rfl, rfl, hwf⟩

/-! ## The words the spec writes out (R119) -/

/-- Settles O4: the decoder evaluates on each word. -/
theorem workedEventWordsDecode : Obligations.WorkedEventWordsDecode :=
  ⟨rfl, rfl, rfl, rfl, rfl⟩

/-- Settles O5: the encoder evaluates on each action. -/
theorem workedActionWords : Obligations.WorkedActionWords :=
  ⟨rfl, rfl, rfl, rfl, rfl⟩

end Sys2Proof
end

section
/-! # Everything an instruction can do (`30_encoding.md` R105, `60_exceptions.md` section 1) -/

namespace Sys2Proof.Machine

/-- The dispositions an instruction can end with by `raise`: the rows "none; none" of the cause table. -/
def raisedBy : Instr → List Disposition
  | .gbnSend _ | .srSend _ | .tcpSend _ => [.windowFull]
  | .gbnAck _ => [.corrupt, .badField]
  | .srAck _ => [.dupAck, .staleAck, .corrupt, .badField]
  | .tcpAck _ => [.staleAck, .corrupt, .badField]
  | .gbnTimeout _ | .srTimeout _ | .tcpTimeout _ => [.spuriousTimeout]
  | .gbnData _ | .tcpData _ => []
  | .srData _ => [.corrupt, .badField]

/-- `ExecCase s i d acts u`: on `s` the instruction `i` may write the state `u`, emit `acts` and end with `d`. One constructor for
each way an event ends; `exec_cases` ties it to `exec`. -/
inductive ExecCase (s : State) : Instr → Disposition → List Action → State → Prop where
  | raised {i : Instr} {d : Disposition} (h : d ∈ raisedBy i) : ExecCase s i d [] s
  | fifoSend {i : Instr} {m : List Byte} (hi : i = .gbnSend m ∨ i = .tcpSend m) (room : s.snd.count ≠ s.straps.windowLen) :
      ExecCase s i .ok
        (.txData (mkData s.straps s.snd.nextseqnum m) ::
          (if s.snd.base = s.snd.nextseqnum then [.tmrStart s.snd.base s.straps.timeoutMs] else []))
        (s.withSnd { s.snd with
          nextseqnum := seqInc s.straps.seqLen s.snd.nextseqnum
          win := s.snd.win ++ [⟨mkData s.straps s.snd.nextseqnum m, false⟩] })
  | srSend {m : List Byte} (room : s.snd.count ≠ s.straps.windowLen) :
      ExecCase s (.srSend m) .ok
        [.tmrStart s.snd.nextseqnum s.straps.timeoutMs, .txData (mkData s.straps s.snd.nextseqnum m)]
        (s.withSnd { s.snd with
          nextseqnum := seqInc s.straps.seqLen s.snd.nextseqnum
          win := s.snd.win ++ [⟨mkData s.straps s.snd.nextseqnum m, false⟩] })
  | gbnAckCovered {f : Frame} {n : Nat} (hn : n ≤ s.snd.count) :
      ExecCase s (.gbnAck f) (if n = 0 then .dupAck else .ok)
        (.tmrStop s.snd.base :: restartTimer s.straps.timeoutMs (swPopFront s.straps.seqLen n s.snd))
        (s.withSnd (swPopFront s.straps.seqLen n s.snd))
  | gbnAckStale {f : Frame} :
      ExecCase s (.gbnAck f) .staleAck (.tmrStop s.snd.base :: restartTimer s.straps.timeoutMs s.snd) s
  | gbnTimeout {k : Word32} (hwin : s.snd.win ≠ []) (hk : k.toNat = s.snd.base) :
      ExecCase s (.gbnTimeout k) .ok
        (.tmrStop k.toNat :: .tmrStart k.toNat s.straps.timeoutMs :: s.snd.win.map fun e => .txData e.pkt) s
  | srAck {f : Frame} {a : Nat} {e : Entry} (ha : f.acknum.toInt = a) (hlt : a < s.straps.seqLen)
      (he : s.snd.win[seqDist s.straps.seqLen a s.snd.base]? = some e) (hacked : e.acked = false) :
      ExecCase s (.srAck f) .ok [.tmrStop a]
        (s.withSnd (swSlideAcked s.straps.seqLen (swSetAcked (seqDist s.straps.seqLen a s.snd.base) s.snd)))
  | srTimeout {k : Word32} {e : Entry} (hk : k.toNat < s.straps.seqLen)
      (he : s.snd.win[seqDist s.straps.seqLen k.toNat s.snd.base]? = some e) (hacked : e.acked = false) :
      ExecCase s (.srTimeout k) .ok [.tmrStart k.toNat s.straps.timeoutMs, .txData e.pkt] s
  | tcpAckProgress {f : Frame} {n : Nat} (hn : n < s.snd.count) :
      ExecCase s (.tcpAck f) .ok
        (.tmrStop s.snd.base :: restartTimer s.straps.timeoutMs { swPopFront s.straps.seqLen (n + 1) s.snd with dup := 0 })
        (s.withSnd { swPopFront s.straps.seqLen (n + 1) s.snd with dup := 0 })
  | tcpAckCounted {f : Frame} (hdup : s.snd.dup + 1 ≠ Config.dupThresh) :
      ExecCase s (.tcpAck f) .dupAck [] (s.withSnd { s.snd with dup := s.snd.dup + 1 })
  | tcpAckThirdEmpty {f : Frame} (hwin : s.snd.win = []) :
      ExecCase s (.tcpAck f) .dupAck [] (s.withSnd { s.snd with dup := 0 })
  | tcpAckThird {f : Frame} {e : Entry} (he : s.snd.win.head? = some e) :
      ExecCase s (.tcpAck f) .fastRetx [.txData e.pkt] (s.withSnd { s.snd with dup := 0 })
  | tcpTimeout {k : Word32} {e : Entry} (he : s.snd.win.head? = some e) (hk : k.toNat = s.snd.base) :
      ExecCase s (.tcpTimeout k) .ok [.tmrStart k.toNat s.straps.timeoutMs, .txData e.pkt] s
  | resendAck {i : Instr} {f : Frame} {d : Disposition} (hi : i = .gbnData f ∨ i = .tcpData f)
      (hd : d ∈ [Disposition.outOfOrder, .corrupt, .badField]) : ExecCase s i d [.txAck s.rcv.lastAck] s
  | inOrder {i : Instr} {f : Frame} (hi : i = .gbnData f ∨ i = .tcpData f) (hck : f.checksum = ck s.straps f)
      (hq : f.seqnum.toInt = s.rcv.base) (hlt : s.rcv.base < s.straps.seqLen) :
      ExecCase s i .ok [.deliver f.payload, .txAck (mkAck s.straps s.rcv.base)]
        (s.withRcv { s.rcv with
          lastAck := mkAck s.straps s.rcv.base
          base := seqInc s.straps.seqLen s.rcv.base })
  | srSeen {f : Frame} {q : Nat} {d : Disposition} (hck : f.checksum = ck s.straps f) (hq : f.seqnum.toInt = q)
      (hlt : q < s.straps.seqLen) (hd : d ∈ [Disposition.dupData, .oldData]) :
      ExecCase s (.srData f) d [.txAck (mkAck s.straps q)] (s.withRcv { s.rcv with lastAck := mkAck s.straps q })
  | srNew {f : Frame} {q i : Nat} (hck : f.checksum = ck s.straps f) (hq : f.seqnum.toInt = q) (hlt : q < s.straps.seqLen)
      (hi : i = seqDist s.straps.seqLen q s.rcv.base) (hin : i < s.straps.windowLen) (hblank : rwGet i s.rcv = none) :
      ExecCase s (.srData f) .ok
        (.txAck (mkAck s.straps q) ::
          (deliverLoop s.straps.seqLen s.straps.windowLen { rwStore i f s.rcv with lastAck := mkAck s.straps q }).1)
        (s.withRcv (deliverLoop s.straps.seqLen s.straps.windowLen
          { rwStore i f s.rcv with lastAck := mkAck s.straps q }).2)

/-- The event ends with `done` on the engine of its kind, in one of the cases of `ExecCase`. -/
def EndsInCase (i : Instr) (s : State) (r : Result) : Prop := ∃ d acts u, ExecCase s i d acts u ∧ r = done i.kind.engine d acts u

theorem sendFifo_endsInCase {i : Instr} {m : List Byte} (hi : i = .gbnSend m ∨ i = .tcpSend m) (s : State) :
    EndsInCase i s (sendFifo m s) := by
  have hraised : Disposition.windowFull ∈ raisedBy i := by rcases hi with rfl | rfl <;> simp [raisedBy]
  have hengine : i.kind.engine = .sender := by rcases hi with rfl | rfl <;> rfl
  rcases sendFifo_cases m s with ⟨-, h⟩ | ⟨room, h⟩
  · exact ⟨_, _, _, .raised hraised, hengine ▸ h⟩
  · exact ⟨_, _, _, .fifoSend hi room, hengine ▸ h⟩

theorem execSrSend_endsInCase (m : List Byte) (s : State) : EndsInCase (.srSend m) s (execSrSend m s) := by
  rcases execSrSend_cases m s with ⟨-, h⟩ | ⟨room, h⟩
  · exact ⟨_, _, _, .raised (by simp [raisedBy]), h⟩
  · exact ⟨_, _, _, .srSend room, h⟩

theorem execGbnAck_endsInCase (f : Frame) (s : State) : EndsInCase (.gbnAck f) s (execGbnAck f s) := by
  rcases execGbnAck_cases f s with ⟨d, hd, h⟩ | ⟨a, n, -, -, -, ⟨hn, h⟩ | ⟨-, h⟩⟩
  · exact ⟨_, _, _, .raised (by simpa [raisedBy] using hd), h⟩
  · exact ⟨_, _, _, .gbnAckCovered hn, h⟩
  · exact ⟨_, _, _, .gbnAckStale, h⟩

theorem execGbnTimeout_endsInCase (k : Word32) (s : State) : EndsInCase (.gbnTimeout k) s (execGbnTimeout k s) := by
  rcases execGbnTimeout_cases k s with ⟨-, h⟩ | ⟨hwin, hk, h⟩
  · exact ⟨_, _, _, .raised (by simp [raisedBy]), h⟩
  · exact ⟨_, _, _, .gbnTimeout hwin hk, h⟩

theorem execSrAck_endsInCase (f : Frame) (s : State) : EndsInCase (.srAck f) s (execSrAck f s) := by
  rcases readField_cases s.straps f f.acknum with ⟨h, -⟩ | ⟨h, -⟩ | ⟨a, h, -, ha, hlt⟩
  · exact ⟨_, _, _, .raised (by simp [raisedBy]), execSrAck_of_error h⟩
  · exact ⟨_, _, _, .raised (by simp [raisedBy]), execSrAck_of_error h⟩
  · cases he : s.snd.win[seqDist s.straps.seqLen a s.snd.base]? with
    | none => exact ⟨_, _, _, .raised (by simp [raisedBy]), execSrAck_of_outside h (List.getElem?_eq_none_iff.1 he)⟩
    | some e =>
      cases hacked : e.acked with
      | true => exact ⟨_, _, _, .raised (by simp [raisedBy]), execSrAck_of_acked h he hacked⟩
      | false => exact ⟨_, _, _, .srAck ha hlt he hacked, execSrAck_of_unacked h he hacked⟩

theorem execSrTimeout_endsInCase (k : Word32) (s : State) : EndsInCase (.srTimeout k) s (execSrTimeout k s) := by
  rcases execSrTimeout_cases k s with h | ⟨e, hk, he, hacked, h⟩
  · exact ⟨_, _, _, .raised (by simp [raisedBy]), h⟩
  · exact ⟨_, _, _, .srTimeout hk he hacked, h⟩

theorem countDuplicate_endsInCase (f : Frame) (s : State) : EndsInCase (.tcpAck f) s (countDuplicate s) := by
  rcases countDuplicate_cases s with ⟨hdup, h⟩ | ⟨-, hwin, h⟩ | ⟨e, -, he, h⟩
  · exact ⟨_, _, _, .tcpAckCounted hdup, h⟩
  · exact ⟨_, _, _, .tcpAckThirdEmpty hwin, h⟩
  · exact ⟨_, _, _, .tcpAckThird he, h⟩

theorem execTcpAck_endsInCase (f : Frame) (s : State) : EndsInCase (.tcpAck f) s (execTcpAck f s) := by
  rcases readField_cases s.straps f f.acknum with ⟨h, -⟩ | ⟨h, -⟩ | ⟨a, h, -⟩
  · exact ⟨_, _, _, .raised (by simp [raisedBy]), execTcpAck_of_error h⟩
  · exact ⟨_, _, _, .raised (by simp [raisedBy]), execTcpAck_of_error h⟩
  · by_cases hin : seqDist s.straps.seqLen a s.snd.base < s.snd.count
    · exact ⟨_, _, _, .tcpAckProgress hin, execTcpAck_of_inside h hin⟩
    · by_cases hprev : seqDist s.straps.seqLen a s.snd.base = s.straps.seqLen - 1
      · exact execTcpAck_of_previous h (not_lt.1 hin) hprev ▸ countDuplicate_endsInCase f s
      · exact ⟨_, _, _, .raised (by simp [raisedBy]), execTcpAck_of_stale h (not_lt.1 hin) hprev⟩

theorem execTcpTimeout_endsInCase (k : Word32) (s : State) : EndsInCase (.tcpTimeout k) s (execTcpTimeout k s) := by
  rcases execTcpTimeout_cases k s with ⟨-, h⟩ | ⟨e, he, hk, h⟩
  · exact ⟨_, _, _, .raised (by simp [raisedBy]), h⟩
  · exact ⟨_, _, _, .tcpTimeout he hk, h⟩

theorem receiveInOrder_endsInCase {i : Instr} {f : Frame} (hi : i = .gbnData f ∨ i = .tcpData f) (s : State) :
    EndsInCase i s (receiveInOrder f s) := by
  have hengine : i.kind.engine = .receiver := by rcases hi with rfl | rfl <;> rfl
  rcases receiveInOrder_cases f s with ⟨d, -, h, hd⟩ | ⟨hck, hq, hlt, h⟩
  · refine ⟨_, _, _, .resendAck hi (d := d) ?_, hengine ▸ h⟩
    rcases hd with ⟨rfl, -⟩ | ⟨rfl, -⟩ | ⟨rfl, -⟩ <;> decide
  · exact ⟨_, _, _, .inOrder hi hck hq hlt, hengine ▸ h⟩

theorem execSrData_endsInCase (f : Frame) (s : State) : EndsInCase (.srData f) s (execSrData f s) := by
  rcases execSrData_cases f s with ⟨d, hd, h⟩ | ⟨q, hck, hq, hlt, ⟨d, hd, h⟩ | ⟨i, hi, hin, hblank, h⟩⟩
  · exact ⟨_, _, _, .raised (by simpa [raisedBy] using hd), h⟩
  · exact ⟨_, _, _, .srSeen hck hq hlt (by simpa using hd), h⟩
  · exact ⟨_, _, _, .srNew hck hq hlt hi hin hblank, h⟩

/-- Everything an instruction can do. -/
theorem exec_cases (i : Instr) (s : State) : EndsInCase i s (exec i s) := by
  cases i with
  | gbnSend m => exact sendFifo_endsInCase (.inl rfl) s
  | tcpSend m => exact sendFifo_endsInCase (.inr rfl) s
  | srSend m => exact execSrSend_endsInCase m s
  | gbnAck f => exact execGbnAck_endsInCase f s
  | srAck f => exact execSrAck_endsInCase f s
  | tcpAck f => exact execTcpAck_endsInCase f s
  | gbnTimeout k => exact execGbnTimeout_endsInCase k s
  | srTimeout k => exact execSrTimeout_endsInCase k s
  | tcpTimeout k => exact execTcpTimeout_endsInCase k s
  | gbnData f => exact receiveInOrder_endsInCase (.inl rfl) s
  | tcpData f => exact receiveInOrder_endsInCase (.inr rfl) s
  | srData f => exact execSrData_endsInCase f s

/-- Everything an instruction that gives `t` did. -/
theorem exec_next_cases {i : Instr} {s t : State} (h : exec i s = .next t) :
    ∃ d acts u, ExecCase s i d acts u ∧
      t = { u with ta := applyTimerActions acts u.ta, out := ⟨some i.kind.engine, acts, some d⟩ } := by
  obtain ⟨d, acts, u, hcase, hdone⟩ := exec_cases i s
  rw [hdone, done_eq, Host.Outcome.next.injEq] at h
  exact ⟨d, acts, u, hcase, h.symm⟩

theorem exec_completes (i : Instr) (s : State) : ∃ t, exec i s = .next t := by
  obtain ⟨d, acts, u, -, hdone⟩ := exec_cases i s
  exact ⟨_, hdone.trans (done_eq ..)⟩

end Sys2Proof.Machine
end

section
/-! # What a step does with each input (`00_scope.md` R12, R17, `30_encoding.md` R108, R118, `60_exceptions.md` R266,
`70_reset_and_hazards.md` R280) -/

namespace Sys2Proof.Machine

/-! ## Event words -/

theorem serve_of_decode {s : State} {w : List Byte} {i : Instr} (h : decode s.straps.variant s.straps.payloadSize w = .ok i) :
    serve w s = exec i s := by
  rw [serve, h]

/-- Settles O47: `serve` runs what the decoder gives, and the decoder gives back an encoded instruction. -/
theorem stepRunsTheDecodedInstruction : Obligations.StepRunsTheDecodedInstruction := by
  intro s w rest i h
  have runs (hd : decode s.straps.variant s.straps.payloadSize w = .ok i) : step s = exec i { s with inputs := rest } :=
    (step_event h).trans (serve_of_decode (s := s.withInputs rest) hd)
  refine ⟨runs, fun hwf hv hw => runs ?_⟩
  rw [← hv, hw, decode_encode hwf]

/-- The key of a table row under the key's variant and kind, as `withFetchWord` cuts it (R105). -/
theorem tableKey_parts (v : Variant) (k : EventKind) (P : Nat) :
    keyVariant ((v.code.toNat * 256 + k.code.toNat) % 2 ^ 16) = v.code ∧
      keyWord P ((v.code.toNat * 256 + k.code.toNat) % 2 ^ 16) = k.code :: zeroBytes (12 + P) := by
  cases v <;> cases k <;> exact ⟨rfl, rfl⟩

/-- Settles O6: the presented word has the key's kind byte and a body of the port's width, so it decodes. -/
theorem presentedTableKeyRunsNext : Obligations.PresentedTableKeyRunsNext := by
  rintro s key v k rfl
  obtain ⟨hv, hw⟩ := tableKey_parts v k s.straps.payloadSize
  obtain ⟨i, hi, hvariant, hkind, hwf⟩ := exists_decode_eq_ok (zeroBytes_length (12 + s.straps.payloadSize)) v k
  refine ⟨i, hvariant, hkind, hwf, ?_⟩
  rw [State.withFetchWord, hv, hw, step_event rfl, serve_of_decode hi]
  rfl

/-- A word that the decoder refuses as reserved is served by `refuseWord`. -/
theorem step_of_reserved {s : State} {w : List Byte} {rest : List Stimulus} {r : DecodeRefusal} (h : s.inputs = .event w :: rest)
    (hd : decode s.straps.variant s.straps.payloadSize w = .error r) (hr : r ≠ .wrongLength) :
    step s = .next { s with inputs := rest, out := ⟨wordEngine w, [], some .refused⟩ } := by
  rw [step_event h, serve, State.withInputs_straps, hd]
  cases r with
  | reservedVariant | reservedKind => rfl
  | wrongLength => exact absurd rfl hr

/-- Settles O48: with VARIANT 3 the refusal is for the variant, otherwise for the kind; the engine is that of the kind byte. -/
theorem reservedEncodingIsRefusedWithoutEffect : Obligations.ReservedEncodingIsRefusedWithoutEffect := by
  intro s k body rest h hbody
  have reservedVariant (hv : s.straps.variant = 3#2) :
      step s = .next { s with inputs := rest, out := ⟨wordEngine (k :: body), [], some .refused⟩ } :=
    step_of_reserved h (hv ▸ decode_reservedVariant hbody k) (by decide)
  constructor
  · intro hk
    rw [← wordEngine_reserved body (EventKind.ofCode_eq_none_iff.2 hk)]
    by_cases hv : s.straps.variant = 3#2
    · exact reservedVariant hv
    · obtain ⟨r, hr⟩ := exists_variant_code hv
      exact step_of_reserved h (hr ▸ decode_reservedKind hbody r hk) (by decide)
  · rintro hv d rfl
    rw [← wordEngine_code d body]
    exact reservedVariant hv

/-! ## Expiries -/

/-- Settles O43: `expire` tests the running bit, clears it, and serves the arbiter's word. -/
theorem expiryIsServedAsTheTimeout : Obligations.ExpiryIsServedAsTheTimeout := by
  intro s k rest h
  rw [step_expire h]
  refine ⟨fun hrun => ?_, fun v hrun hv => ⟨expire_eq_exec (s := s.withInputs rest) hv hrun, ?_⟩⟩
  · rcases expire_cases k (s.withInputs rest) with ⟨-, he⟩ | ⟨hrun', -⟩
    · exact he
    · exact absurd (hrun.symm.trans hrun') (by decide)
  · simp [running_timerExpire]

/-! ## Ticks -/

/-- The remaining time goes down by one where the timer runs, and stops at zero. -/
theorem cellTick_eq (c : TimerCell) :
    cellTick c = { c with remaining := BitVec.ofNat 32 (if c.run then c.remaining.toNat - 1 else c.remaining.toNat) } := by
  obtain ⟨run, remaining⟩ := c
  cases run with
  | false => simp [cellTick]
  | true =>
    by_cases h : remaining = 0#32
    · simp [cellTick, h]
    · simp only [cellTick, h, Bool.true_and, ne_eq, not_false_iff, decide_true, if_true]
      congr 1
      bv_omega

/-- Settles O46: the cells are those of `cellTick_eq`. -/
theorem tickCountsRunningTimersDown : Obligations.TickCountsRunningTimersDown := by
  intro s rest h
  refine ⟨_, step_tick h, rfl, fun k => ?_⟩
  simp only [tick, State.withOut_ta, State.withTa_ta, State.withInputs_ta, timerTick, List.getElem?_map]
  exact congrArg (Option.map · _) (funext cellTick_eq)

/-! ## Resets -/

/-- After reset no timer runs (R57). -/
theorem running_replicate_init (k n : Nat) : running k (List.replicate n TimerCell.init) = false := by
  rw [running_eq_false_iff]
  intro c hc
  rw [List.eq_of_mem_replicate (List.mem_of_getElem? hc)]
  rfl

/-- Settles O51: the arbiter of reset holds stopped cells. -/
theorem resetStopsTimersAndEmitsNothing : Obligations.ResetStopsTimersAndEmitsNothing := by
  intro s v T rest h
  refine ⟨_, step_rst h, rfl, rfl, List.length_replicate, fun k => running_replicate_init k _, fun c hc => ?_, rfl⟩
  rw [List.eq_of_mem_replicate hc]
  rfl

/-! ## No step faults -/

theorem decode_of_wrongLength {v : BitVec 2} {P : Nat} {w : List Byte} (h : decode v P w = .error .wrongLength) :
    w.length ≠ 13 + P := by
  intro hlen
  match w, hlen with
  | [], hlen => exact absurd hlen (by simp only [List.length_nil]; omega)
  | k :: body, hlen =>
    have hbody : body.length = 12 + P := by rw [List.length_cons] at hlen; omega
    obtain ⟨hv, hk, hok⟩ := portWidthWordDecodesOrIsReserved v P k body hbody
    by_cases h3 : v = 3#2
    · exact absurd (h.symm.trans (hv h3)) (by decide)
    · rcases Nat.lt_or_ge 3 k.toNat with hgt | hle
      · exact absurd (h.symm.trans (hk h3 hgt)) (by decide)
      · obtain ⟨i, hi, -⟩ := hok h3 hle
        exact absurd (h.symm.trans hi) (by simp)

/-- Serving a word stops only at one that no port can carry. -/
theorem serve_completes {w : List Byte} {s : State} (h : w.length = s.straps.wordBytes) : ∃ t, serve w s = .next t := by
  rcases serve_cases w s with ⟨i, -, hs⟩ | hs | ⟨hd, -⟩
  · exact hs ▸ exec_completes i s
  · exact ⟨_, hs⟩
  · exact absurd (h.trans (by simp only [Straps.wordBytes, Straps.frameBytes]; omega)) (decode_of_wrongLength hd)

/-- The arbiter's word has the port's width. -/
theorem timeoutWord_length (c : Straps) (k : Word32) : (timeoutWord c.payloadSize k).length = c.wordBytes := by
  simp only [timeoutWord, Straps.wordBytes, Straps.frameBytes, List.length_cons, List.length_append, be32Bytes_length,
    zeroBytes_length]
  omega

/-- Settles O49: by the next input; a word of the port's width is served, and an instruction completes. -/
theorem stepStopsOnlyOnImpossibleInputs : Obligations.StepStopsOnlyOnImpossibleInputs := by
  refine ⟨fun s => step_idle, fun s => ?_⟩
  cases h : s.inputs with
  | nil => exact .inl ⟨_, step_idle h⟩
  | cons x rest =>
    cases x with
    | tick => exact .inl ⟨_, step_tick h⟩
    | rst v T => exact .inl ⟨_, step_rst h⟩
    | event w =>
      rw [step_event h]
      by_cases hw : w.length = s.straps.wordBytes
      · exact .inl (serve_completes (s := s.withInputs rest) hw)
      · rcases serve_cases w (s.withInputs rest) with ⟨i, -, hs⟩ | hs | ⟨-, hs⟩
        · exact .inl (hs ▸ exec_completes i _)
        · exact .inl ⟨_, hs⟩
        · exact .inr (.inl ⟨w, rest, rfl, hw, hs⟩)
    | expire k =>
      rw [step_expire h]
      rcases expire_cases k (s.withInputs rest) with ⟨hrun, he⟩ | ⟨-, he⟩
      · exact .inr (.inr ⟨k, rest, rfl, hrun, he⟩)
      · exact .inl (he ▸ serve_completes (timeoutWord_length _ k))

end Sys2Proof.Machine
end

section
/-! # Rules over all instructions (`60_exceptions.md` sections 1 and 2, `20_memory.md` section 4, `10_state.md` section 2) -/

namespace Sys2Proof.Machine

/-! ## What a report says of its first action -/

section

variable (e : Option Engine) (d : Option Disposition) (acts : List Action) (f : Frame) (k : Nat) (T : Word32) (m : List Byte)

@[simp] theorem dataFrames_nil : Report.dataFrames ⟨e, [], d⟩ = [] := rfl
@[simp] theorem dataFrames_txData : Report.dataFrames ⟨e, .txData f :: acts, d⟩ = f :: Report.dataFrames ⟨e, acts, d⟩ := rfl
@[simp] theorem dataFrames_txAck : Report.dataFrames ⟨e, .txAck f :: acts, d⟩ = Report.dataFrames ⟨e, acts, d⟩ := rfl
@[simp] theorem dataFrames_tmrStart : Report.dataFrames ⟨e, .tmrStart k T :: acts, d⟩ = Report.dataFrames ⟨e, acts, d⟩ := rfl
@[simp] theorem dataFrames_tmrStop : Report.dataFrames ⟨e, .tmrStop k :: acts, d⟩ = Report.dataFrames ⟨e, acts, d⟩ := rfl

@[simp] theorem ackFrames_nil : Report.ackFrames ⟨e, [], d⟩ = [] := rfl
@[simp] theorem ackFrames_txAck : Report.ackFrames ⟨e, .txAck f :: acts, d⟩ = f :: Report.ackFrames ⟨e, acts, d⟩ := rfl
@[simp] theorem ackFrames_deliver : Report.ackFrames ⟨e, .deliver m :: acts, d⟩ = Report.ackFrames ⟨e, acts, d⟩ := rfl

@[simp] theorem delivered_nil : Report.delivered ⟨e, [], d⟩ = [] := rfl
@[simp] theorem delivered_txAck : Report.delivered ⟨e, .txAck f :: acts, d⟩ = Report.delivered ⟨e, acts, d⟩ := rfl
@[simp] theorem delivered_deliver : Report.delivered ⟨e, .deliver m :: acts, d⟩ = m :: Report.delivered ⟨e, acts, d⟩ := rfl

variable {acts}

/-- The receiver transmits no data. -/
theorem dataFrames_of_receiver (h : ∀ a ∈ acts, a.engine = .receiver) : Report.dataFrames ⟨e, acts, d⟩ = [] := by
  refine List.filterMap_eq_nil_iff.2 fun a ha => ?_
  cases a with
  | txAck _ | deliver _ => rfl
  | txData _ | tmrStart _ _ | tmrStop _ => exact absurd (h _ ha) (by simp [Action.engine])

/-- The sender sends no acknowledgment. -/
theorem ackFrames_of_sender (h : ∀ a ∈ acts, a.engine = .sender) : Report.ackFrames ⟨e, acts, d⟩ = [] := by
  refine List.filterMap_eq_nil_iff.2 fun a ha => ?_
  cases a with
  | txData _ | tmrStart _ _ | tmrStop _ => rfl
  | txAck _ | deliver _ => exact absurd (h _ ha) (by simp [Action.engine])

/-- The sender delivers nothing. -/
theorem delivered_of_sender (h : ∀ a ∈ acts, a.engine = .sender) : Report.delivered ⟨e, acts, d⟩ = [] := by
  refine List.filterMap_eq_nil_iff.2 fun a ha => ?_
  cases a with
  | txData _ | tmrStart _ _ | tmrStop _ => rfl
  | txAck _ | deliver _ => exact absurd (h _ ha) (by simp [Action.engine])

end

/-- The actions of the delivery loop are deliveries. -/
theorem deliverLoop_deliver (L n : Nat) (r : Receiver) : ∀ a ∈ (deliverLoop L n r).1, ∃ m, a = .deliver m := by
  induction n generalizing r with
  | zero => simp [deliverLoop]
  | succ n ih =>
    unfold deliverLoop
    split
    · simp
    · exact List.forall_mem_cons.2 ⟨⟨_, rfl⟩, ih _⟩

theorem ackFrames_deliverLoop (e : Option Engine) (d : Option Disposition) (L n : Nat) (r : Receiver) :
    Report.ackFrames ⟨e, (deliverLoop L n r).1, d⟩ = [] := by
  refine List.filterMap_eq_nil_iff.2 fun a ha => ?_
  obtain ⟨m, rfl⟩ := deliverLoop_deliver L n r a ha
  rfl

/-! ## Completion, dispositions and ownership -/

theorem restartTimer_engine (T : Word32) (r : Sender) : ∀ a ∈ restartTimer T r, a.engine = .sender := by
  rcases restartTimer_cases T r with ⟨-, h⟩ | ⟨-, h⟩ <;> simp [h, Action.engine]

theorem disposition_of_raisedBy {i : Instr} {d : Disposition} (h : d ∈ raisedBy i) : d ∈ dispositionsOf i := by
  revert h
  cases i <;> simp only [raisedBy, dispositionsOf] <;> revert d <;> decide

section

variable {s u : State} {i : Instr} {d : Disposition} {acts : List Action}

theorem ExecCase.disposition (h : ExecCase s i d acts u) : d ∈ dispositionsOf i := by
  cases h with
  | raised hd => exact disposition_of_raisedBy hd
  | fifoSend hi => rcases hi with rfl | rfl <;> simp [dispositionsOf]
  | gbnAckCovered => split <;> simp [dispositionsOf]
  | resendAck hi hd => rcases hi with rfl | rfl <;> revert hd <;> simp only [dispositionsOf] <;> revert d <;> decide
  | inOrder hi => rcases hi with rfl | rfl <;> simp [dispositionsOf]
  | srSeen _ _ _ hd => revert hd; simp only [dispositionsOf]; revert d; decide
  | srSend | gbnAckStale | gbnTimeout | srAck | srTimeout | tcpAckProgress | tcpAckCounted | tcpAckThirdEmpty | tcpAckThird |
    tcpTimeout | srNew => simp [dispositionsOf]

/-- All actions of an event leave from the port of its engine (R100, R110). -/
theorem ExecCase.actions_engine (h : ExecCase s i d acts u) : ∀ a ∈ acts, a.engine = i.kind.engine := by
  cases h with
  | raised => simp
  | fifoSend hi =>
    have hengine : i.kind.engine = .sender := by rcases hi with rfl | rfl <;> rfl
    rw [hengine]
    refine List.forall_mem_cons.2 ⟨rfl, ?_⟩
    split <;> simp [Action.engine]
  | gbnAckCovered | gbnAckStale | tcpAckProgress => exact List.forall_mem_cons.2 ⟨rfl, restartTimer_engine _ _⟩
  | gbnTimeout => simp [Action.engine, Instr.kind, EventKind.engine]
  | resendAck hi | inOrder hi => rcases hi with rfl | rfl <;> simp [Action.engine, Instr.kind, EventKind.engine]
  | srNew =>
    refine List.forall_mem_cons.2 ⟨rfl, fun a ha => ?_⟩
    obtain ⟨m, rfl⟩ := deliverLoop_deliver _ _ _ a ha
    rfl
  | srSend | srAck | srTimeout | tcpAckCounted | tcpAckThirdEmpty | tcpAckThird | tcpTimeout | srSeen =>
    simp [Action.engine, Instr.kind, EventKind.engine]

/-- What no event writes, and what the events of each engine leave alone (`20_memory.md` section 4). -/
structure Untouched (e : Engine) (s u : State) : Prop where
  straps : u.straps = s.straps
  inputs : u.inputs = s.inputs
  ta : u.ta = s.ta
  rcv : e = .sender → u.rcv = s.rcv
  snd : e = .receiver → u.snd = s.snd

theorem ExecCase.untouched (h : ExecCase s i d acts u) : Untouched i.kind.engine s u := by
  cases h with
  | fifoSend hi => rcases hi with rfl | rfl <;> exact ⟨rfl, rfl, rfl, fun _ => rfl, nofun⟩
  | inOrder hi => rcases hi with rfl | rfl <;> exact ⟨rfl, rfl, rfl, nofun, fun _ => rfl⟩
  | raised | gbnAckStale | gbnTimeout | srTimeout | tcpTimeout | resendAck => exact ⟨rfl, rfl, rfl, fun _ => rfl, fun _ => rfl⟩
  | srSend | gbnAckCovered | srAck | tcpAckProgress | tcpAckCounted | tcpAckThirdEmpty | tcpAckThird =>
    exact ⟨rfl, rfl, rfl, fun _ => rfl, nofun⟩
  | srSeen | srNew => exact ⟨rfl, rfl, rfl, nofun, fun _ => rfl⟩

/-- The arbiter obeys no action of the receiver (R103). -/
theorem applyTimerActions_of_receiver (h : ∀ a ∈ acts, a.engine = .receiver) (ta : List TimerCell) :
    applyTimerActions acts ta = ta := by
  refine applyTimerActions_of_noTimer (fun a ha ta => ?_) ta
  cases a with
  | txAck _ | deliver _ => rfl
  | txData _ | tmrStart _ _ | tmrStop _ => exact absurd (h _ ha) (by simp [Action.engine])

end

/-- Settles O31: by the cases of `exec_cases`; the receiver's actions are nothing for the arbiter. -/
theorem everyEventCompletesWithinItsEngine : Obligations.EveryEventCompletesWithinItsEngine := by
  intro i s
  obtain ⟨d, acts, u, hcase, hdone⟩ := exec_cases i s
  have untouched := hcase.untouched
  have hengine := hcase.actions_engine
  refine ⟨_, d, hdone.trans (done_eq ..), rfl, rfl, hcase.disposition, untouched.straps, untouched.inputs, hengine,
    untouched.rcv, fun hi => ⟨untouched.snd hi, ?_⟩⟩
  exact (applyTimerActions_of_receiver (hi ▸ hengine) u.ta).trans untouched.ta

/-! ## Dispositions that leave no trace -/

/-- The rows of the cause table with "none; none". -/
def LeavesNoTrace (i : Instr) (d : Disposition) : Prop :=
  d = .windowFull ∨ d = .spuriousTimeout ∨
    ((d = .corrupt ∨ d = .badField) ∧ (i.kind = .ack ∨ i.variant = .sr)) ∨
    (i.kind = .ack ∧ i.variant = .sr ∧ (d = .dupAck ∨ d = .staleAck)) ∨
    (i.kind = .ack ∧ i.variant = .tcp ∧ d = .staleAck)

/-- Only `raise` ends with such a disposition. -/
theorem ExecCase.of_leavesNoTrace {s u : State} {i : Instr} {d : Disposition} {acts : List Action} (h : ExecCase s i d acts u)
    (hd : LeavesNoTrace i d) : acts = [] ∧ u = s := by
  cases h with
  | raised => exact ⟨rfl, rfl⟩
  | gbnAckCovered => split at hd <;> simp [LeavesNoTrace, Instr.kind, Instr.variant] at hd
  | resendAck hi hd' =>
    rcases hi with rfl | rfl <;> simp only [List.mem_cons, List.not_mem_nil, or_false] at hd' <;>
    rcases hd' with rfl | rfl | rfl <;> simp [LeavesNoTrace, Instr.kind, Instr.variant] at hd
  | srSeen _ _ _ hd' =>
    simp only [List.mem_cons, List.not_mem_nil, or_false] at hd'
    rcases hd' with rfl | rfl <;> simp [LeavesNoTrace, Instr.kind, Instr.variant] at hd
  | fifoSend | srSend | gbnAckStale | gbnTimeout | srAck | srTimeout | tcpAckProgress | tcpAckCounted | tcpAckThirdEmpty |
    tcpAckThird | tcpTimeout | inOrder | srNew => simp [LeavesNoTrace, Instr.kind, Instr.variant] at hd

/-- Settles O32: such an event wrote nothing and emitted nothing, so only the report is new. -/
theorem raisedDispositionLeavesNoTrace : Obligations.RaisedDispositionLeavesNoTrace := by
  intro i s t d h hdisp hd
  obtain ⟨d', acts, u, hcase, rfl⟩ := exec_next_cases h
  cases hdisp
  obtain ⟨rfl, rfl⟩ := hcase.of_leavesNoTrace hd
  rfl

/-! ## The frames of the window -/

/-- A mark changes no frame. -/
theorem map_pkt_swSetAcked (i : Nat) (r : Sender) : (swSetAcked i r).win.map (·.pkt) = r.win.map (·.pkt) := by
  refine List.ext_getElem? fun j => ?_
  rw [List.getElem?_map, List.getElem?_map, swSetAcked_win, List.getElem?_modify]
  cases r.win[j]? with
  | none => rfl
  | some e =>
    by_cases hij : i = j
    · simp [hij]
    · simp [hij]

theorem slideLoop_win (L b : Nat) (l : List Entry) : (slideLoop L b l).2 = l.drop (ackedPrefix l).length := by
  induction l generalizing b with
  | nil => rfl
  | cons e es ih =>
    unfold slideLoop
    by_cases h : e.acked
    · rw [if_pos h, ih]
      simp [ackedPrefix, h]
    · simp [ackedPrefix, h]

/-- The slide drops the acknowledged prefix (R152). -/
theorem swSlideAcked_win (L : Nat) (r : Sender) : (swSlideAcked L r).win = r.win.drop (ackedPrefix r.win).length :=
  slideLoop_win L r.base r.win

section

variable {s u : State} {i : Instr} {d : Disposition} {acts : List Action}

theorem ExecCase.frames (h : ExecCase s i d acts u) (e : Option Engine) (d' : Option Disposition) :
    ∃ n, u.snd.win.map (·.pkt) =
      (s.snd.win.map (·.pkt)).drop n ++ (if i.kind = .send then Report.dataFrames ⟨e, acts, d'⟩ else []) := by
  cases h with
  | raised => exact ⟨0, by simp⟩
  | fifoSend hi =>
    have hkind : i.kind = .send := by rcases hi with rfl | rfl <;> rfl
    refine ⟨0, ?_⟩
    rw [if_pos hkind]
    split <;> simp
  | srSend => exact ⟨0, by simp [Instr.kind]⟩
  | gbnAckCovered | tcpAckProgress => exact ⟨_, by simp [Instr.kind, List.map_drop]; rfl⟩
  | srAck =>
    exact ⟨_, by rw [State.withSnd_snd, swSlideAcked_win, List.map_drop, map_pkt_swSetAcked, if_neg (by simp [Instr.kind]),
      List.append_nil]⟩
  | resendAck hi | inOrder hi => exact ⟨0, by rcases hi with rfl | rfl <;> simp [Instr.kind]⟩
  | gbnAckStale | gbnTimeout | srTimeout | tcpAckCounted | tcpAckThirdEmpty | tcpAckThird | tcpTimeout | srSeen | srNew =>
    exact ⟨0, by simp [Instr.kind]⟩

end

/-- Settles O35: by the cases of `exec_cases`; only a push, a pop, a mark and a slide touch the window. -/
theorem storedFramesNeverChange : Obligations.StoredFramesNeverChange := by
  intro i s t h
  obtain ⟨d, acts, u, hcase, rfl⟩ := exec_next_cases h
  exact hcase.frames ..

/-! ## What is transmitted -/

theorem dataFrames_restartTimer (e : Option Engine) (d : Option Disposition) (T : Word32) (r : Sender) :
    Report.dataFrames ⟨e, restartTimer T r, d⟩ = [] := by
  rcases restartTimer_cases T r with ⟨-, h⟩ | ⟨-, h⟩ <;> rw [h] <;> rfl

theorem dataFrames_map_txData (e : Option Engine) (d : Option Disposition) (l : List Entry) :
    Report.dataFrames ⟨e, l.map fun x => .txData x.pkt, d⟩ = l.map (·.pkt) := by
  simp [Report.dataFrames, List.filterMap_map]

section

variable {s u : State} {i : Instr} {d : Disposition} {acts : List Action} (h : ExecCase s i d acts u) (e : Option Engine)
  (d' : Option Disposition)
include h

theorem ExecCase.dataFrames_of_data (hk : i.kind = .data) : Report.dataFrames ⟨e, acts, d'⟩ = [] :=
  dataFrames_of_receiver e d' (by have := h.actions_engine; rwa [hk] at this)

theorem ExecCase.ackFrames_of_not_data (hk : i.kind ≠ .data) : Report.ackFrames ⟨e, acts, d'⟩ = [] := by
  refine ackFrames_of_sender e d' fun a ha => (h.actions_engine a ha).trans ?_
  revert hk
  cases i.kind <;> simp [EventKind.engine]

/-- Only frames that are in the window afterwards are transmitted. -/
theorem ExecCase.dataFrames_subset : ∀ f ∈ Report.dataFrames ⟨e, acts, d'⟩, f ∈ u.snd.win.map (·.pkt) := by
  by_cases hk : i.kind = .data
  · rw [h.dataFrames_of_data e d' hk]
    simp
  cases h with
  | raised => simp
  | fifoSend => split <;> simp
  | srSend => simp
  | gbnAckCovered | gbnAckStale | tcpAckProgress => simp [dataFrames_restartTimer]
  | gbnTimeout => simp [dataFrames_map_txData]
  | srTimeout _ he => simpa using ⟨_, List.mem_of_getElem? he, rfl⟩
  | tcpAckThird he | tcpTimeout he => simpa using ⟨_, List.mem_of_mem_head? he, rfl⟩
  | srAck | tcpAckCounted | tcpAckThirdEmpty => simp
  | resendAck hi | inOrder hi => rcases hi with rfl | rfl <;> exact absurd rfl hk
  | srSeen | srNew => exact absurd rfl hk

/-- GBN and SR transmit no data on an ACK. -/
theorem ExecCase.dataFrames_of_ack (hk : i.kind = .ack) (hv : i.variant ≠ .tcp) : Report.dataFrames ⟨e, acts, d'⟩ = [] := by
  cases h with
  | raised => rfl
  | gbnAckCovered | gbnAckStale => simp [dataFrames_restartTimer]
  | srAck => rfl
  | tcpAckProgress | tcpAckCounted | tcpAckThirdEmpty | tcpAckThird => exact absurd rfl hv
  | fifoSend hi | resendAck hi | inOrder hi => rcases hi with rfl | rfl <;> cases hk
  | srSend | gbnTimeout | srTimeout | tcpTimeout | srSeen | srNew => cases hk

/-- SR and TCP-like transmit at most one data frame an event. -/
theorem ExecCase.dataFrames_length_le (hv : i.variant ≠ .gbn) : (Report.dataFrames ⟨e, acts, d'⟩).length ≤ 1 := by
  by_cases hk : i.kind = .data
  · rw [h.dataFrames_of_data e d' hk]
    simp
  cases h with
  | fifoSend => split <;> simp
  | tcpAckProgress => simp [dataFrames_restartTimer]
  | raised | srSend | srAck | srTimeout | tcpAckCounted | tcpAckThirdEmpty | tcpAckThird | tcpTimeout => simp
  | gbnAckCovered | gbnAckStale | gbnTimeout => exact absurd rfl hv
  | resendAck hi | inOrder hi => rcases hi with rfl | rfl <;> exact absurd rfl hk
  | srSeen | srNew => exact absurd rfl hk

theorem ExecCase.ackFrames_length_le : (Report.ackFrames ⟨e, acts, d'⟩).length ≤ 1 := by
  by_cases hk : i.kind = .data
  · cases h with
    | raised | resendAck | inOrder | srSeen => simp
    | srNew => simp [ackFrames_deliverLoop]
    | fifoSend hi => rcases hi with rfl | rfl <;> cases hk
    | srSend | gbnAckCovered | gbnAckStale | gbnTimeout | srAck | srTimeout | tcpAckProgress | tcpAckCounted | tcpAckThirdEmpty |
      tcpAckThird | tcpTimeout => cases hk
  · rw [h.ackFrames_of_not_data e d' hk]
    simp

/-- An in-order receiver sends the ACK it has cached then. -/
theorem ExecCase.ackFrames_of_inOrder (hv : i.variant ≠ .sr) (hk : i.kind = .data) :
    Report.ackFrames ⟨e, acts, d'⟩ = [u.rcv.lastAck] := by
  cases h with
  | raised hd => cases i <;> simp [raisedBy, Instr.kind, Instr.variant] at hd hk hv
  | resendAck | inOrder => rfl
  | fifoSend hi => rcases hi with rfl | rfl <;> cases hk
  | srSeen | srNew => exact absurd rfl hv
  | srSend | gbnAckCovered | gbnAckStale | gbnTimeout | srAck | srTimeout | tcpAckProgress | tcpAckCounted | tcpAckThirdEmpty |
    tcpAckThird | tcpTimeout => cases hk

/-- An SR receiver answers only a frame that passes `data_ok`. -/
theorem ExecCase.ackFrames_of_not_dataOk {f : Frame} (hi : i = .srData f) (hf : dataOk s.straps f = false) :
    Report.ackFrames ⟨e, acts, d'⟩ = [] := by
  have accepted {q : Nat} (hck : f.checksum = ck s.straps f) (hq : f.seqnum.toInt = q) (hlt : q < s.straps.seqLen) :
      dataOk s.straps f = true := by
    simp [dataOk, valid, inRange, hck, hq, hlt]
  cases h with
  | raised => rfl
  | srSeen hck hq hlt | srNew hck hq hlt =>
    cases hi
    exact absurd (hf.symm.trans (accepted hck hq hlt)) (by decide)
  | fifoSend hi' | resendAck hi' | inOrder hi' => rcases hi' with rfl | rfl <;> cases hi
  | srSend | gbnAckCovered | gbnAckStale | gbnTimeout | srAck | srTimeout | tcpAckProgress | tcpAckCounted | tcpAckThirdEmpty |
    tcpAckThird | tcpTimeout => cases hi

end

/-- Settles O36: clause by clause, each by the cases of `exec_cases`. -/
theorem transmissionsAreBounded : Obligations.TransmissionsAreBounded := by
  intro i s t h
  obtain ⟨d, acts, u, hcase, rfl⟩ := exec_next_cases h
  exact ⟨hcase.dataFrames_subset _ _, hcase.dataFrames_of_ack _ _, hcase.dataFrames_length_le _ _,
    hcase.ackFrames_length_le _ _, hcase.ackFrames_of_not_data _ _, hcase.ackFrames_of_inOrder _ _,
    fun _ => hcase.ackFrames_of_not_dataOk _ _⟩

end Sys2Proof.Machine
end

section
/-! # The sender window keeps its legal shape (`10_state.md` R46, `42_window_buffer.md` section 1) -/

namespace Sys2Proof.Machine

/-! ## The longest prefix with a property -/

section

variable {α : Type} {p : α → Bool} {l : List α} {x : α}

theorem getElem?_of_prefix {l' : List α} {i : Nat} (h : l <+: l') (hx : l[i]? = some x) : l'[i]? = some x := by
  obtain ⟨hi, rfl⟩ := List.getElem?_eq_some_iff.1 hx
  exact List.prefix_iff_getElem?.1 h i hi

theorem holds_of_lt_takeWhile {i : Nat} (hi : i < (l.takeWhile p).length) (hx : l[i]? = some x) : p x = true := by
  have hget : l[i]? = some (l.takeWhile p)[i] := List.prefix_iff_getElem?.1 (List.takeWhile_prefix p) i hi
  rw [hx, Option.some_inj] at hget
  exact hget ▸ List.mem_takeWhile_imp (List.getElem_mem hi)

theorem not_holds_of_takeWhile_length (hx : l[(l.takeWhile p).length]? = some x) : p x = false := by
  induction l with
  | nil => simp at hx
  | cons y l ih =>
    cases hy : p y with
    | true => exact ih (by simpa [List.takeWhile_cons, hy] using hx)
    | false =>
      simp only [List.takeWhile_cons, hy, Bool.false_eq_true, if_false, List.length_nil, List.getElem?_cons_zero,
        Option.some_inj] at hx
      exact hx ▸ hy

end

/-! ## The operations on the window -/

theorem length_ackedPrefix_le (l : List Entry) : (ackedPrefix l).length ≤ l.length := (List.takeWhile_prefix _).length_le

@[simp] theorem swSetAcked_count (i : Nat) (r : Sender) : (swSetAcked i r).count = r.count := List.length_modify ..

/-- The slide pops the acknowledged prefix (R152). -/
theorem swSlideAcked_eq_popFront {L : Nat} {r : Sender} (hb : r.base < L) :
    swSlideAcked L r = swPopFront L (ackedPrefix r.win).length r := swSlideAcked_eq hb

section

variable {c : Straps} {r : Sender}

theorem SenderShape.init (c : Straps) : SenderShape c Sender.init :=
  ⟨c.seqLen_pos, Nat.zero_le _, (seqAdd_zero c.seqLen_pos).symm⟩

variable (h : SenderShape c r)
include h

theorem SenderShape.push (room : r.count ≠ c.windowLen) (e : Entry) :
    SenderShape c { r with nextseqnum := seqInc c.seqLen r.nextseqnum, win := r.win ++ [e] } := by
  have hcount : Sender.count { r with nextseqnum := seqInc c.seqLen r.nextseqnum, win := r.win ++ [e] } = r.count + 1 :=
    List.length_append
  refine ⟨h.base_lt, ?_, ?_⟩
  · have := h.count_le
    omega
  · rw [hcount, h.next_eq]
    exact seqInc_seqAdd ..

theorem SenderShape.popFront {n : Nat} (hn : n ≤ r.count) : SenderShape c (swPopFront c.seqLen n r) := by
  have hcount : (swPopFront c.seqLen n r).count = r.count - n := List.length_drop
  refine ⟨seqAdd_lt c.seqLen_pos _ _, ?_, ?_⟩
  · have := h.count_le
    omega
  · rw [hcount, swPopFront_next, swPopFront_base, seqAdd_seqAdd, Nat.add_sub_cancel' hn, h.next_eq]

theorem SenderShape.setDup (d : Nat) : SenderShape c { r with dup := d } := ⟨h.base_lt, h.count_le, h.next_eq⟩

theorem SenderShape.setAcked (i : Nat) : SenderShape c (swSetAcked i r) :=
  ⟨h.base_lt, (swSetAcked_count i r).trans_le h.count_le, by rw [swSetAcked_count]; exact h.next_eq⟩

theorem SenderShape.slideAcked : SenderShape c (swSlideAcked c.seqLen r) :=
  swSlideAcked_eq_popFront h.base_lt ▸ h.popFront (length_ackedPrefix_le _)

end

/-! ## Every step -/

theorem ExecCase.keeps_senderShape {s u : State} {i : Instr} {d : Disposition} {acts : List Action}
    (hcase : ExecCase s i d acts u) (h : SenderShape s.straps s.snd) : SenderShape s.straps u.snd := by
  cases hcase with
  | fifoSend _ room | srSend room => exact h.push room _
  | gbnAckCovered hn => exact h.popFront hn
  | srAck => exact (h.setAcked _).slideAcked
  | tcpAckProgress hn => exact (h.popFront hn).setDup 0
  | tcpAckCounted | tcpAckThirdEmpty | tcpAckThird => exact h.setDup _
  | raised | gbnAckStale | gbnTimeout | srTimeout | tcpTimeout | resendAck | inOrder | srSeen | srNew => exact h

theorem exec_keeps_senderShape {i : Instr} {s t : State} (h : SenderShape s.straps s.snd) (ht : exec i s = .next t) :
    SenderShape t.straps t.snd := by
  obtain ⟨d, acts, u, hcase, rfl⟩ := exec_next_cases ht
  show SenderShape u.straps u.snd
  rw [hcase.untouched.straps]
  exact hcase.keeps_senderShape h

theorem serve_keeps_senderShape {w : List Byte} {s t : State} (h : SenderShape s.straps s.snd) (ht : serve w s = .next t) :
    SenderShape t.straps t.snd := by
  rcases serve_cases w s with ⟨i, -, hs⟩ | hs | ⟨-, hs⟩ <;> rw [hs] at ht
  · exact exec_keeps_senderShape h ht
  · cases ht
    exact h
  · cases ht

/-- Settles O54: an event by `ExecCase.keeps_senderShape`; an expiry, a tick and an idle step bring no other event, and a reset
starts anew. -/
theorem stepKeepsTheSenderWindowBound : Obligations.StepKeepsTheSenderWindowBound := by
  intro s t h ht
  rcases step_cases ht with ⟨-, rfl⟩ | ⟨w, rest, -, ⟨i, -, hi⟩ | rfl⟩ | ⟨k, rest, -, -, hs⟩ | ⟨rest, -, rfl⟩ |
    ⟨v, T, rest, -, rfl⟩
  · exact h
  · exact exec_keeps_senderShape (s := s.withInputs rest) h hi
  · exact h
  · exact serve_keeps_senderShape (s := (s.withInputs rest).withTa _) h hs
  · exact h
  · exact SenderShape.init _

end Sys2Proof.Machine
end

section
/-! # Every event keeps the sender's half of the invariant (`10_state.md` R46 to R50, R54) -/

namespace Sys2Proof.Machine

/-! ## Contents and marks of the window -/

/-- The sender's half of the invariant but for the arbiter. -/
structure WindowInv (c : Straps) (r : Sender) : Prop where
  shape : SenderShape c r
  frames : SenderFrames c r
  marks : AckedMarks c r
  dup : DupBound c r
  reserved : ReservedIdle c r

theorem senderInv_iff {s : State} : SenderInv s ↔ WindowInv s.straps s.snd ∧ TimerSet s.straps s.snd s.ta :=
  ⟨fun h => ⟨⟨h.shape, h.frames, h.marks, h.dup, h.reserved⟩, h.timers⟩,
    fun ⟨h, ht⟩ => ⟨h.shape, h.frames, h.marks, h.dup, ht, h.reserved⟩⟩

theorem SenderInv.congr {s t : State} (h : SenderInv s) (hc : t.straps = s.straps) (hs : t.snd = s.snd) (ht : t.ta = s.ta) :
    SenderInv t := by
  rw [senderInv_iff, hc, hs, ht, ← senderInv_iff]
  exact h

theorem WindowInv.init (c : Straps) : WindowInv c Sender.init where
  shape := .init c
  frames := by simp [SenderFrames, Sender.init]
  marks := by simp [AckedMarks, Sender.init]
  dup := ⟨Nat.zero_le _, fun _ => rfl⟩
  reserved := fun _ => rfl

theorem getElem?_concat_cases {α : Type} {l : List α} {a x : α} {i : Nat} (h : (l ++ [a])[i]? = some x) :
    l[i]? = some x ∨ (i = l.length ∧ x = a) := by
  rw [List.getElem?_append] at h
  split at h
  · exact .inl h
  · rw [List.getElem?_singleton] at h
    split at h
    · exact .inr ⟨by omega, (Option.some_inj.1 h).symm⟩
    · cases h

/-- A mark leaves the frame of an entry and every other entry. -/
theorem swSetAcked_win_getElem? {i j : Nat} {r : Sender} {e : Entry} (h : (swSetAcked i r).win[j]? = some e) :
    ∃ e₀, r.win[j]? = some e₀ ∧ e.pkt = e₀.pkt ∧ e.acked = (e₀.acked || decide (i = j)) := by
  rw [swSetAcked_win, List.getElem?_modify, Option.map_eq_map, Option.map_eq_some_iff] at h
  obtain ⟨e₀, he₀, rfl⟩ := h
  refine ⟨e₀, he₀, ?_⟩
  by_cases hij : i = j <;> simp [hij]

section

variable {c : Straps} {r : Sender} (h : WindowInv c r)
include h

theorem WindowInv.count_lt : r.count < c.seqLen := h.shape.count_le.trans_lt c.windowLen_lt_seqLen

theorem WindowInv.push (room : r.count ≠ c.windowLen) (hv : c.variant ≠ 3#2) {m : List Byte} (hm : m.length = c.payloadSize) :
    WindowInv c { r with
      nextseqnum := seqInc c.seqLen r.nextseqnum, win := r.win ++ [⟨mkData c r.nextseqnum m, false⟩] } where
  shape := h.shape.push room _
  frames := by
    intro i e he
    rcases getElem?_concat_cases he with hold | ⟨hi, hnew⟩
    · exact h.frames i e hold
    · exact ⟨m, hm, by rw [hnew, hi, h.shape.next_eq]; rfl⟩
  marks := by
    obtain ⟨hall, hfront⟩ := h.marks
    constructor
    · intro hsr e he
      rcases List.mem_append.1 he with hold | hnew
      · exact hall hsr e hold
      · rw [List.mem_singleton.1 hnew]
    · intro e he
      cases hw : r.win with
      | nil =>
        rw [hw] at he
        cases he
        rfl
      | cons e₀ es =>
        rw [hw] at he
        exact hfront e (hw ▸ he)
  dup := h.dup
  reserved := fun h3 => absurd h3 hv

theorem WindowInv.popFront {n : Nat} (hn : n ≤ r.count) (hfront : ∀ e, r.win[n]? = some e → e.acked = false) :
    WindowInv c (swPopFront c.seqLen n r) where
  shape := h.shape.popFront hn
  frames := by
    intro i e he
    rw [swPopFront_win, List.getElem?_drop] at he
    obtain ⟨m, hm, hpkt⟩ := h.frames _ e he
    exact ⟨m, hm, by rw [swPopFront_base, seqAdd_seqAdd, hpkt]⟩
  marks := by
    refine ⟨fun hsr e he => h.marks.1 hsr e (List.mem_of_mem_drop he), fun e he => hfront e ?_⟩
    rwa [swPopFront_win, List.head?_drop] at he
  dup := h.dup
  reserved := fun h3 => by rw [swPopFront_win, h.reserved h3, List.drop_nil]

theorem WindowInv.setDup {d : Nat} (hd : d ≤ 2) (hv : c.variant = 2#2) : WindowInv c { r with dup := d } where
  shape := h.shape.setDup d
  frames := h.frames
  marks := h.marks
  dup := ⟨hd, fun hne => absurd hv hne⟩
  reserved := h.reserved

/-- In GBN and TCP-like no entry is marked, so any pop leaves a front that is not. -/
theorem WindowInv.not_acked {n : Nat} (hv : c.variant ≠ 1#2) : ∀ e, r.win[n]? = some e → e.acked = false :=
  fun e he => h.marks.1 hv e (List.mem_of_getElem? he)

/-- In SR, after a mark, the front may be marked; the slide leaves one that is not. -/
theorem WindowInv.setAcked_slide (i : Nat) (hv : c.variant = 1#2) :
    WindowInv c (swSlideAcked c.seqLen (swSetAcked i r)) where
  shape := (h.shape.setAcked i).slideAcked
  frames := by
    intro j e he
    rw [swSlideAcked_win, List.getElem?_drop] at he
    obtain ⟨e₀, he₀, hpkt, -⟩ := swSetAcked_win_getElem? he
    obtain ⟨m, hm, hpkt₀⟩ := h.frames _ e₀ he₀
    refine ⟨m, hm, ?_⟩
    rw [swSlideAcked_eq_popFront (h.shape.setAcked i).base_lt, swPopFront_base, seqAdd_seqAdd, hpkt, hpkt₀]
    rfl
  marks := by
    refine ⟨fun hne => absurd hv hne, fun e he => ?_⟩
    rw [swSlideAcked_win, List.head?_drop] at he
    exact not_holds_of_takeWhile_length he
  dup := h.dup
  reserved := fun h3 => absurd (hv.symm.trans h3) (by decide)

end

/-! ## Running timers -/

section

variable {c : Straps} {r : Sender} {ta : List TimerCell}

theorem shouldRun_fifo (hv : c.variant ≠ 1#2) (k : Nat) : shouldRun c r k ↔ r.win ≠ [] ∧ k = r.base := by
  rw [shouldRun, if_neg hv]

theorem shouldRun_sr (hv : c.variant = 1#2) (k : Nat) :
    shouldRun c r k ↔ ∃ i e, r.win[i]? = some e ∧ e.acked = false ∧ k = seqAdd c.seqLen r.base i := by
  rw [shouldRun, if_pos hv]

/-- Only a key with a cell runs. -/
theorem lt_length_of_running {k : Nat} (h : running k ta = true) : k < ta.length := by
  by_contra hge
  simp [running, List.getElem?_eq_none (not_lt.1 hge)] at h

/-- A timer that runs already may be started again. -/
theorem TimerSet.restart {k : Nat} (h : TimerSet c r ta) (hk : running k ta = true) (T : Word32) :
    TimerSet c r (timerStart k T ta) := by
  refine ⟨(timerStart_length k T ta).trans h.1, fun j => ?_⟩
  rw [← h.2 j, running_timerStart]
  split
  · next hj => simp [hj, hk, lt_length_of_running hk]
  · rfl

/-- GBN and TCP-like: the timer of the old base is stopped, that of the new one started if the new window is not empty. -/
theorem TimerSet.stop_restart {r' : Sender} (h : TimerSet c r ta) (hv : c.variant ≠ 1#2) (hb : r'.base < c.seqLen) (T : Word32) :
    TimerSet c r' (applyTimerActions (.tmrStop r.base :: restartTimer T r') ta) := by
  refine ⟨(applyTimerActions_length _ ta).trans h.1, fun k => ?_⟩
  have stopped (k : Nat) : running k (timerStop r.base ta) = false := by
    rw [running_timerStop]
    split
    · rfl
    · next hk => exact Bool.eq_false_iff.2 fun hrun => hk ((shouldRun_fifo hv k).1 ((h.2 k).1 hrun)).2
  rw [shouldRun_fifo hv, applyTimerActions_cons]
  rcases restartTimer_cases T r' with ⟨hwin, hr⟩ | ⟨hwin, hr⟩
  · simp [hr, applyTimerAction, stopped, hwin]
  · simp [hr, applyTimerAction, running_timerStart, stopped, hwin, h.1, hb]

/-- GBN and TCP-like: a push starts the timer of the base if the window was empty. -/
theorem TimerSet.push_fifo (h : TimerSet c r ta) (hs : SenderShape c r) (hv : c.variant ≠ 1#2) (e : Entry) (n : Nat) (T : Word32) :
    TimerSet c { r with nextseqnum := n, win := r.win ++ [e] }
      (applyTimerActions (if r.base = r.nextseqnum then [.tmrStart r.base T] else []) ta) := by
  refine ⟨(applyTimerActions_length _ ta).trans h.1, fun k => ?_⟩
  have hrun := h.2 k
  rw [shouldRun_fifo hv] at hrun ⊢
  by_cases hempty : r.base = r.nextseqnum
  · have hwin : r.win = [] := List.length_eq_zero_iff.1 (hs.base_eq_next_iff.1 hempty)
    rw [if_pos hempty, applyTimerActions_cons, applyTimerActions_nil, applyTimerAction, running_timerStart, h.1]
    split
    · next hk => simpa [hk] using hs.base_lt
    · next hk => simpa [hk, hwin] using hrun
  · have hwin : r.win ≠ [] := fun hwin => hempty (hs.base_eq_next_iff.2 (List.length_eq_zero_iff.2 hwin))
    rw [if_neg hempty, applyTimerActions_nil, hrun]
    simp [hwin]

/-- SR: the new packet has its own timer. -/
theorem TimerSet.push_sr (h : TimerSet c r ta) (hs : SenderShape c r) (hv : c.variant = 1#2) (f : Frame) (n : Nat) (T : Word32) :
    TimerSet c { r with nextseqnum := n, win := r.win ++ [⟨f, false⟩] } (timerStart r.nextseqnum T ta) := by
  refine ⟨(timerStart_length _ T ta).trans h.1, fun k => ?_⟩
  have hnext : r.nextseqnum < ta.length := h.1 ▸ hs.next_eq ▸ seqAdd_lt c.seqLen_pos _ _
  rw [running_timerStart, shouldRun_sr hv]
  constructor
  · intro hrun
    split at hrun
    · next hk => exact ⟨r.count, ⟨f, false⟩, List.getElem?_concat_length .., rfl, hk.trans hs.next_eq⟩
    · obtain ⟨i, e, he, hacked, hk⟩ := (shouldRun_sr hv k).1 ((h.2 k).1 hrun)
      exact ⟨i, e, List.getElem?_append_left (List.getElem?_eq_some_iff.1 he).1 ▸ he, hacked, hk⟩
  · rintro ⟨i, e, he, hacked, hk⟩
    split
    · exact decide_eq_true hnext
    · next hne =>
      rcases getElem?_concat_cases he with hold | ⟨hi, -⟩
      · exact (h.2 k).2 ((shouldRun_sr hv k).2 ⟨i, e, hold, hacked, hk⟩)
      · exact absurd (hk.trans (hi ▸ hs.next_eq.symm)) hne

/-- SR: the timer of a newly marked entry is stopped; the entries that leave the window are marked and have none. -/
theorem TimerSet.setAcked_slide (h : TimerSet c r ta) (hs : SenderShape c r) (hv : c.variant = 1#2) {i : Nat}
    (hi : i < r.count) :
    TimerSet c (swSlideAcked c.seqLen (swSetAcked i r)) (timerStop (seqAdd c.seqLen r.base i) ta) := by
  have hcount : r.count < c.seqLen := hs.count_le.trans_lt c.windowLen_lt_seqLen
  refine ⟨(timerStop_length _ ta).trans h.1, fun k => ?_⟩
  rw [running_timerStop, shouldRun_sr hv, swSlideAcked_eq_popFront (hs.setAcked i).base_lt, swPopFront_base, swSetAcked_base,
    swPopFront_win]
  constructor
  · intro hrun
    split at hrun
    · cases hrun
    · next hne =>
      obtain ⟨j, e, he, hacked, hk⟩ := (shouldRun_sr hv k).1 ((h.2 k).1 hrun)
      have hij : i ≠ j := fun hij => hne (hij ▸ hk)
      have hmarked : (swSetAcked i r).win[j]? = some e := by simp [he, hij]
      have hj : (ackedPrefix (swSetAcked i r).win).length ≤ j := by
        by_contra hlt
        exact absurd (hacked.symm.trans (holds_of_lt_takeWhile (not_le.1 hlt) hmarked)) (by decide)
      refine ⟨j - (ackedPrefix (swSetAcked i r).win).length, e, ?_, hacked, ?_⟩
      · rw [List.getElem?_drop, Nat.add_sub_cancel' hj, hmarked]
      · rw [seqAdd_seqAdd, Nat.add_sub_cancel' hj, hk]
  · rintro ⟨j, e, he, hacked, hk⟩
    rw [List.getElem?_drop] at he
    rw [seqAdd_seqAdd] at hk
    obtain ⟨e₀, he₀, -, hmark⟩ := swSetAcked_win_getElem? he
    rw [hacked, eq_comm, Bool.or_eq_false_iff, decide_eq_false_iff_not] at hmark
    have hj := (List.getElem?_eq_some_iff.1 he₀).1
    rw [if_neg fun hka => hmark.2 (seqAdd_inj hs.base_lt (hi.trans hcount) (lt_trans hj hcount) (hka.symm.trans hk)), h.2 k]
    exact (shouldRun_sr hv k).2 ⟨_, e₀, he₀, hmark.1, hk⟩

end

/-! ## Every event -/

section

variable {s u : State} {i : Instr} {d : Disposition} {acts : List Action}

/-- What an event must be so that the invariant of its block survives it: one of the block's own variant, and of the port's
width where it brings a message or a frame to be stored. -/
structure Fits (s : State) (i : Instr) : Prop where
  variant : i.variant.code = s.straps.variant
  send : i.kind = .send → i.wf s.straps.payloadSize = true
  data : ∀ f, i = .srData f → valid s.straps f = true → f.wf s.straps.payloadSize

theorem Fits.not_sr (hi : Fits s i) (h : i.variant ≠ .sr) : s.straps.variant ≠ 1#2 := by
  rw [← hi.variant]
  revert h
  cases i.variant <;> decide

/-- The instruction of a well-formed word of the block's variant. -/
theorem Fits.of_wf (hv : i.variant.code = s.straps.variant) (hwf : i.wf s.straps.payloadSize = true) : Fits s i where
  variant := hv
  send := fun _ => hwf
  data := by
    rintro f rfl -
    exact of_decide_eq_true hwf

theorem ExecCase.keeps_windowInv (hcase : ExecCase s i d acts u) (hi : Fits s i) (h : WindowInv s.straps s.snd) :
    WindowInv s.straps u.snd := by
  have hthree : s.straps.variant ≠ 3#2 := hi.variant ▸ i.variant.code_ne_three
  cases hcase with
  | fifoSend hi' room =>
    have hm := hi.send (by rcases hi' with rfl | rfl <;> rfl)
    rcases hi' with rfl | rfl <;> exact h.push room hthree (of_decide_eq_true hm)
  | srSend room => exact h.push room hthree (of_decide_eq_true (hi.send rfl))
  | gbnAckCovered hn => exact h.popFront hn (h.not_acked (hi.not_sr (by simp [Instr.variant])))
  | srAck => exact h.setAcked_slide _ hi.variant.symm
  | tcpAckProgress hn =>
    have hpop := h.popFront (Nat.succ_le_of_lt hn) (h.not_acked (hi.not_sr (by simp [Instr.variant])))
    exact hpop.setDup (Nat.zero_le 2) hi.variant.symm
  | tcpAckCounted hdup =>
    have hle := h.dup.1
    have hne : s.snd.dup + 1 ≠ 3 := hdup
    exact h.setDup (by omega) hi.variant.symm
  | tcpAckThirdEmpty | tcpAckThird => exact h.setDup (Nat.zero_le 2) hi.variant.symm
  | raised | gbnAckStale | gbnTimeout | srTimeout | tcpTimeout | resendAck | inOrder | srSeen | srNew => exact h

theorem ExecCase.keeps_timerSet (hcase : ExecCase s i d acts u) (hi : Fits s i) (h : WindowInv s.straps s.snd)
    (ht : TimerSet s.straps s.snd s.ta) : TimerSet s.straps u.snd (applyTimerActions acts s.ta) := by
  have hvariant := hi.variant
  have hinv := hcase.keeps_windowInv hi h
  have hengine := hcase.actions_engine
  cases hcase with
  | raised => exact ht
  | fifoSend hi' =>
    have hv : s.straps.variant ≠ 1#2 := by rcases hi' with rfl | rfl <;> exact hi.not_sr (by simp [Instr.variant])
    exact ht.push_fifo h.shape hv ..
  | srSend => exact ht.push_sr h.shape hvariant.symm ..
  | gbnAckCovered | gbnAckStale => exact ht.stop_restart (hi.not_sr (by simp [Instr.variant])) hinv.shape.base_lt _
  | gbnTimeout hwin hk =>
    have hrun := (ht.2 s.snd.base).2 ((shouldRun_fifo (hi.not_sr (by simp [Instr.variant])) _).2 ⟨hwin, rfl⟩)
    rw [applyTimerActions_cons, applyTimerActions_cons, applyTimerActions_txData, hk]
    simpa only [applyTimerAction, timerStart_timerStop] using ht.restart hrun s.straps.timeoutMs
  | srAck ha hlt he hacked =>
    have hidx := (List.getElem?_eq_some_iff.1 he).1
    have hstop := ht.setAcked_slide h.shape hvariant.symm hidx
    rwa [seqAdd_seqDist hlt h.shape.base_lt] at hstop
  | srTimeout hk he hacked =>
    refine ht.restart ((ht.2 _).2 ((shouldRun_sr hvariant.symm _).2 ⟨_, _, he, hacked, ?_⟩)) _
    rw [seqAdd_seqDist hk h.shape.base_lt]
  | tcpAckProgress => exact ht.stop_restart (hi.not_sr (by simp [Instr.variant])) hinv.shape.base_lt _
  | tcpAckCounted | tcpAckThirdEmpty | tcpAckThird => exact ⟨ht.1, ht.2⟩
  | tcpTimeout he hk =>
    have hwin : s.snd.win ≠ [] := fun hnil => by simp [hnil] at he
    exact ht.restart ((ht.2 _).2 ((shouldRun_fifo (hi.not_sr (by simp [Instr.variant])) _).2 ⟨hwin, hk⟩)) _
  | resendAck hi' | inOrder hi' =>
    have hk : i.kind.engine = .receiver := by rcases hi' with rfl | rfl <;> rfl
    exact (applyTimerActions_of_receiver (hk ▸ hengine) s.ta).symm ▸ ht
  | srSeen | srNew => exact (applyTimerActions_of_receiver hengine s.ta).symm ▸ ht

end

theorem exec_keeps_senderInv {i : Instr} {s t : State} (hi : Fits s i) (h : SenderInv s) (ht : exec i s = .next t) :
    SenderInv t := by
  obtain ⟨d, acts, u, hcase, rfl⟩ := exec_next_cases ht
  obtain ⟨hwindow, htimers⟩ := senderInv_iff.1 h
  refine senderInv_iff.2 ⟨?_, ?_⟩
  · show WindowInv u.straps u.snd
    exact hcase.untouched.straps ▸ hcase.keeps_windowInv hi hwindow
  · show TimerSet u.straps u.snd (applyTimerActions acts u.ta)
    rw [hcase.untouched.straps, hcase.untouched.ta]
    exact hcase.keeps_timerSet hi hwindow htimers

/-! ## Expiries -/

/-- The head of the window is transmitted when the timer of its number expires. -/
def RetransmitsHead (r : Sender) (k : Nat) (acts : List Action) : Prop :=
  k = r.base → ∀ e, r.win.head? = some e → ∀ engine d, e.pkt ∈ Report.dataFrames ⟨engine, acts, d⟩

/-- In a state with the invariant, the `TIMEOUT` of a running timer ends OK and starts that timer, whatever the arbiter holds. -/
theorem exec_timeout_of_running {s : State} {k : Word32} {v : Variant} (h : SenderInv s) (hv : s.straps.variant = v.code)
    (hrun : running k.toNat s.ta = true) :
    ∃ acts, RetransmitsHead s.snd k.toNat acts ∧ ∀ ta, exec (.ofTimeout k v) (s.withTa ta) =
      .next ((s.withTa (timerStart k.toNat s.straps.timeoutMs ta)).withOut ⟨some .sender, acts, some .ok⟩) := by
  have hshould := (h.timers.2 _).1 hrun
  cases v with
  | gbn =>
    obtain ⟨hwin, hk⟩ := (shouldRun_fifo (hv ▸ by decide) _).1 hshould
    have hcount : s.snd.count ≠ 0 := fun h0 => hwin (List.length_eq_zero_iff.1 h0)
    refine ⟨[.tmrStop s.snd.base, .tmrStart s.snd.base s.straps.timeoutMs] ++ s.snd.win.map fun e => .txData e.pkt,
      fun _ e he engine d => ?_, fun ta => (execGbnTimeout_of_base (s := s.withTa ta) hcount hk).trans ?_⟩
    · rw [dataFrames_restart_retransmit]
      exact List.mem_map_of_mem (List.mem_of_mem_head? he)
    · rw [hk, timerStart_timerStop]
      rfl
  | sr =>
    obtain ⟨i, e, he, hacked, hk⟩ := (shouldRun_sr hv _).1 hshould
    have hi : i < s.straps.seqLen := (List.getElem?_eq_some_iff.1 he).1.trans (senderInv_iff.1 h).1.count_lt
    have hdist : seqDist s.straps.seqLen k.toNat s.snd.base = i := by rw [hk, seqDist_seqAdd h.shape.base_lt hi]
    have hlt : k.toNat < s.straps.seqLen := hk ▸ seqAdd_lt s.straps.seqLen_pos _ _
    refine ⟨[.tmrStart k.toNat s.straps.timeoutMs, .txData e.pkt], fun hbase e' he' engine d => ?_,
      fun ta => execSrTimeout_of_unacked (s := s.withTa ta) hlt (hdist ▸ he) hacked⟩
    have hi0 : i = 0 := by
      rw [← hdist, hbase, seqDist_eq_iff h.shape.base_lt h.shape.base_lt s.straps.seqLen_pos, seqAdd_zero h.shape.base_lt]
    rw [hi0, ← List.head?_eq_getElem?, he', Option.some_inj] at he
    simp [he]
  | tcp =>
    obtain ⟨hwin, hk⟩ := (shouldRun_fifo (hv ▸ by decide) _).1 hshould
    obtain ⟨e, he⟩ := Option.ne_none_iff_exists'.1 (mt List.head?_eq_none_iff.1 hwin)
    refine ⟨[.tmrStart s.snd.base s.straps.timeoutMs, .txData e.pkt], fun _ e' he' engine d => ?_,
      fun ta => (execTcpTimeout_of_head (s := s.withTa ta) he hk).trans (by rw [hk]; rfl)⟩
    rw [he', Option.some_inj] at he
    simp [he]

/-- An expiry is the `TIMEOUT` on the state whose timer still runs: the start that follows drops what the expiry did. -/
theorem expire_of_running {s : State} {k : Word32} {v : Variant} (h : SenderInv s) (hv : s.straps.variant = v.code)
    (hrun : running k.toNat s.ta = true) : expire k s = exec (.ofTimeout k v) s := by
  obtain ⟨acts, -, hexec⟩ := exec_timeout_of_running h hv hrun
  rw [expire_eq_exec hv hrun, hexec, timerExpire, ← timerStop, timerStart_timerStop]
  exact (hexec s.ta).symm

end Sys2Proof.Machine
end

section
/-! # Every event keeps the receiver's half of the invariant (`10_state.md` R26 to R28, R51, R52) -/

namespace Sys2Proof.Machine

/-! ## Slots -/

/-- After `j` front slots have left, the frame at offset `i` is the one that stood at `j + i`. -/
theorem join_getElem?_drop_append_blanks (l : List (Option Frame)) (i j n : Nat) :
    (l.drop j ++ List.replicate n none)[i]?.join = l[j + i]?.join := by
  rw [List.getElem?_append]
  split
  · rw [List.getElem?_drop]
  · next h =>
    have hlen : l.length ≤ j + i := by
      rw [List.length_drop] at h
      omega
    rw [List.getElem?_eq_none hlen, List.getElem?_replicate]
    split <;> rfl

/-- The slot after the received prefix is blank. -/
theorem join_getElem?_receivedPrefix (l : List (Option Frame)) : l[(receivedPrefix l).length]?.join = none := by
  cases h : l[(receivedPrefix l).length]? with
  | none => rfl
  | some o => exact Option.isSome_eq_false_iff.1 (not_holds_of_takeWhile_length h) |> Option.isNone_iff_eq_none.1

/-- A stored frame, or one that was there. -/
theorem join_getElem?_set {l : List (Option Frame)} {i j : Nat} {f g : Frame} (h : (l.set i (some f))[j]?.join = some g) :
    (j = i ∧ g = f) ∨ l[j]?.join = some g := by
  rw [List.getElem?_set] at h
  split at h
  · next hij =>
    split at h
    · exact .inl ⟨hij.symm, (Option.some_inj.1 h).symm⟩
    · cases h
  · exact .inr h

theorem exists_receivedPrefix_eq_map_some (l : List (Option Frame)) : ∃ fs : List Frame, receivedPrefix l = fs.map some := by
  refine ⟨(receivedPrefix l).filterMap id, ?_⟩
  rw [List.map_filterMap, ← List.filterMap_some (l := receivedPrefix l), List.filterMap_filterMap]
  refine List.filterMap_congr fun o ho => ?_
  obtain ⟨f, rfl⟩ := Option.isSome_iff_exists.1 (List.mem_takeWhile_imp ho)
  rfl

/-- What the delivery loop does after the frame `f` has been stored at offset `i` (R206, R209): the frames `fs` received at the
front are delivered and leave. -/
theorem deliverLoop_store {c : Straps} {r : Receiver} (h : ReceiverShape c r) {i : Nat} {f : Frame} (a : Frame) {fs : List Frame}
    (hfs : receivedPrefix (r.slots.set i (some f)) = fs.map some) :
    deliverLoop c.seqLen c.windowLen { rwStore i f r with lastAck := a } =
      (fs.map fun g => .deliver g.payload,
        { base := seqAdd c.seqLen r.base fs.length
          lastAck := a
          slots := (r.slots.set i (some f)).drop fs.length ++ List.replicate fs.length none }) := by
  have hlen : (receivedPrefix (r.slots.set i (some f))).length ≤ c.windowLen :=
    ((List.takeWhile_prefix _).length_le.trans List.length_set.le).trans h.slots_length.le
  rw [deliverLoop_eq (r := { rwStore i f r with lastAck := a }) c.seqLen_pos _ h.base_lt hlen]
  simp only [rwStore_base, rwStore_slots, hfs, List.length_map, List.filterMap_map, Function.comp_def, Option.map_some,
    List.filterMap_eq_map']

/-! ## Every event -/

/-- The receiver's half of the invariant, as one of straps and receiver. -/
def SlotsInv (c : Straps) (r : Receiver) : Prop := ReceiverShape c r ∧ CumulativeAck c r ∧ SlotFrames c r

theorem receiverInv_iff {s : State} : ReceiverInv s ↔ SlotsInv s.straps s.rcv :=
  ⟨fun h => ⟨h.shape, h.cumulative, h.slots⟩, fun ⟨hshape, hcumulative, hslots⟩ => ⟨hshape, hcumulative, hslots⟩⟩

theorem ReceiverInv.congr {s t : State} (h : ReceiverInv s) (hc : t.straps = s.straps) (hr : t.rcv = s.rcv) : ReceiverInv t := by
  rw [receiverInv_iff, hc, hr, ← receiverInv_iff]
  exact h

theorem rwGet_init (c : Straps) (i : Nat) : rwGet i (Receiver.init c) = none := by
  rw [rwGet, Receiver.init, List.getElem?_replicate]
  split <;> rfl

theorem SlotsInv.init (c : Straps) : SlotsInv c (Receiver.init c) :=
  ⟨⟨c.seqLen_pos, List.length_replicate, c.seqLen - 1, Nat.sub_lt c.seqLen_pos one_pos, rfl⟩,
    fun _ => ⟨congrArg (mkAck c) (seqPrev_eq c.one_lt_seqLen c.seqLen_pos).symm, rwGet_init c⟩,
    rwGet_init c 0, fun i _ h => absurd ((rwGet_init c i).symm.trans h) nofun⟩

section

variable {c : Straps} {r : Receiver} (h : SlotsInv c r)
include h

theorem SlotsInv.setLastAck {q : Nat} (hq : q < c.seqLen) (hv : c.variant = 1#2) :
    SlotsInv c { r with lastAck := mkAck c q } := by
  obtain ⟨hshape, -, hslots⟩ := h
  exact ⟨⟨hshape.base_lt, hshape.slots_length, q, hq, rfl⟩, fun hne => absurd hv hne, hslots⟩

theorem SlotsInv.advance (hv : c.variant ≠ 1#2) :
    SlotsInv c { r with lastAck := mkAck c r.base, base := seqInc c.seqLen r.base } := by
  obtain ⟨hshape, hcumulative, -⟩ := h
  have hblank := (hcumulative hv).2
  have hprev : seqPrev c.seqLen (seqInc c.seqLen r.base) = r.base := by
    rw [seqPrev_eq c.one_lt_seqLen (seqInc_lt c.seqLen_pos _), seqInc_eq hshape.base_lt]
    by_cases hlast : r.base + 1 = c.seqLen
    · rw [if_pos hlast, if_pos rfl, ← hlast, Nat.add_sub_cancel]
    · rw [if_neg hlast, if_neg (Nat.succ_ne_zero _), Nat.add_sub_cancel]
  exact ⟨⟨seqInc_lt c.seqLen_pos _, hshape.slots_length, r.base, hshape.base_lt, rfl⟩, fun _ => ⟨by rw [hprev], hblank⟩,
    hblank 0, fun i _ hf => absurd ((hblank i).symm.trans hf) nofun⟩

/-- A slot after the store of a frame that `data_ok` accepts, with number `seq_add(R.base, i)`. -/
theorem SlotsInv.store_slot {i j : Nat} {f g : Frame} (hf : dataOk c f = true) (hp : f.payload.length = c.payloadSize)
    (hq : f.seqnum.toInt = (seqAdd c.seqLen r.base i : Int)) (hg : (r.slots.set i (some f))[j]?.join = some g) :
    dataOk c g = true ∧ g.payload.length = c.payloadSize ∧ g.seqnum.toInt = (seqAdd c.seqLen r.base j : Int) := by
  obtain ⟨-, -, hslots⟩ := h
  rcases join_getElem?_set hg with ⟨rfl, rfl⟩ | hold
  · exact ⟨hf, hp, hq⟩
  · exact hslots.2 j g hold

theorem SlotsInv.store {i q : Nat} {f : Frame} (hv : c.variant = 1#2) (hq : q < c.seqLen)
    (hi : i = seqDist c.seqLen q r.base) (hck : f.checksum = ck c f) (hseq : f.seqnum.toInt = q)
    (hp : f.payload.length = c.payloadSize) :
    SlotsInv c (deliverLoop c.seqLen c.windowLen { rwStore i f r with lastAck := mkAck c q }).2 := by
  have hshape := h.1
  have hf : dataOk c f = true := by simp [dataOk, valid, inRange, hck, hseq, hq]
  have hnumber : f.seqnum.toInt = (seqAdd c.seqLen r.base i : Int) := by rw [hi, seqAdd_seqDist hq hshape.base_lt, hseq]
  obtain ⟨fs, hfs⟩ := exists_receivedPrefix_eq_map_some (r.slots.set i (some f))
  have hlen : fs.length = (receivedPrefix (r.slots.set i (some f))).length := by rw [hfs, List.length_map]
  rw [deliverLoop_store hshape _ hfs]
  refine ⟨⟨seqAdd_lt c.seqLen_pos _ _, ?_, q, hq, rfl⟩, fun hne => absurd hv hne, ?_, fun j g hg => ?_⟩
  · have hle : fs.length ≤ (r.slots.set i (some f)).length := hlen.trans_le (List.takeWhile_prefix _).length_le
    rw [List.length_append, List.length_drop, List.length_replicate, Nat.sub_add_cancel hle, List.length_set,
      hshape.slots_length]
  · rw [rwGet, join_getElem?_drop_append_blanks, Nat.add_zero, hlen, join_getElem?_receivedPrefix]
  · rw [rwGet, join_getElem?_drop_append_blanks] at hg
    rw [seqAdd_seqAdd]
    exact h.store_slot hf hp hnumber hg

end

theorem ExecCase.keeps_slotsInv {s u : State} {i : Instr} {d : Disposition} {acts : List Action}
    (hcase : ExecCase s i d acts u) (hi : Fits s i) (h : SlotsInv s.straps s.rcv) : SlotsInv s.straps u.rcv := by
  have hvariant := hi.variant
  cases hcase with
  | inOrder hi' =>
    have hv : s.straps.variant ≠ 1#2 := by rcases hi' with rfl | rfl <;> exact hi.not_sr (by simp [Instr.variant])
    exact h.advance hv
  | srSeen _ _ hlt => exact h.setLastAck hlt hvariant.symm
  | srNew hck hq hlt hidx => exact h.store hvariant.symm hlt hidx hck hq (hi.data _ rfl ((valid_iff ..).2 hck))
  | raised | gbnAckStale | gbnTimeout | srTimeout | tcpTimeout | resendAck | fifoSend | srSend | gbnAckCovered | srAck |
    tcpAckProgress | tcpAckCounted | tcpAckThirdEmpty | tcpAckThird => exact h

theorem exec_keeps_receiverInv {i : Instr} {s t : State} (hi : Fits s i) (h : ReceiverInv s) (ht : exec i s = .next t) :
    ReceiverInv t := by
  obtain ⟨d, acts, u, hcase, rfl⟩ := exec_next_cases ht
  refine receiverInv_iff.2 ?_
  show SlotsInv u.straps u.rcv
  exact hcase.untouched.straps ▸ hcase.keeps_slotsInv hi (receiverInv_iff.1 h)

end Sys2Proof.Machine
end

section
/-! # The invariant of reachable states (`10_state.md` section 9) -/

namespace Sys2Proof.Machine

/-! ## Reset -/

theorem inv_init (c : Straps) : (State.init c).Inv where
  sender := senderInv_iff.2 ⟨.init c, List.length_replicate, fun k => by
    have hstopped : running k (State.init c).ta = false := running_replicate_init k c.seqLen
    rw [hstopped]
    simp [shouldRun, State.init, Sender.init]⟩
  receiver := receiverInv_iff.2 (.init c)

/-- Settles O52: each half of the invariant holds of its half of the reset state. -/
theorem resetStateHasTheInvariant : Obligations.ResetStateHasTheInvariant :=
  ⟨inv_init, inv_init _⟩

/-! ## Every step -/

/-- The invariant does not read the waiting inputs and the report. -/
theorem State.Inv.congr {s t : State} (h : s.Inv) (hc : t.straps = s.straps) (hs : t.snd = s.snd) (hr : t.rcv = s.rcv)
    (ht : t.ta = s.ta) : t.Inv :=
  ⟨h.sender.congr hc hs ht, h.receiver.congr hc hr⟩

theorem exec_keeps_inv {i : Instr} {s t : State} (hi : Fits s i) (h : s.Inv) (ht : exec i s = .next t) : t.Inv :=
  ⟨exec_keeps_senderInv hi h.sender ht, exec_keeps_receiverInv hi h.receiver ht⟩

/-- An instruction that the decoder gives fits the block. -/
theorem Fits.of_decode {s : State} {w : List Byte} {i : Instr} (h : decode s.straps.variant s.straps.payloadSize w = .ok i) :
    Fits s i := by
  obtain ⟨r, k, i0, i1, i2, p, hv, hp, -, rfl⟩ := decode_ok_cases h
  exact .of_wf (by rw [Instr.ofBody_variant, hv]) (hp ▸ Instr.ofBody_wf ..)

/-- With the reserved strap value no timer runs (R41). -/
theorem exists_variant_of_running {s : State} {k : Nat} (h : SenderInv s) (hrun : running k s.ta = true) :
    ∃ v : Variant, s.straps.variant = v.code := by
  by_cases h3 : s.straps.variant = 3#2
  · have hwin := ((shouldRun_fifo (h3 ▸ by decide) k).1 ((h.timers.2 k).1 hrun)).1
    exact absurd (h.reserved h3) hwin
  · exact exists_variant_code h3

theorem Fits.ofTimeout {s : State} {v : Variant} (hv : s.straps.variant = v.code) (k : Word32) : Fits s (.ofTimeout k v) :=
  .of_wf (by cases v <;> exact hv.symm) (by cases v <;> rfl)

/-- Settles O53: an event by `exec_keeps_inv`; an expiry is the event of its key; a tick, a refused word and an idle step touch
nothing that the invariant reads; a reset starts anew. -/
theorem stepKeepsTheInvariant : Obligations.StepKeepsTheInvariant := by
  intro s t h ht
  cases hs : s.inputs with
  | nil =>
    rw [step_idle hs] at ht
    cases ht
    exact h.congr rfl rfl rfl rfl
  | cons x rest =>
    have hrest : (s.withInputs rest).Inv := h.congr rfl rfl rfl rfl
    cases x with
    | event w =>
      rw [step_event hs] at ht
      rcases serve_cases w (s.withInputs rest) with ⟨i, hd, hi⟩ | hi | ⟨-, hi⟩ <;> rw [hi] at ht
      · exact exec_keeps_inv (.of_decode hd) hrest ht
      · cases ht
        exact hrest.congr rfl rfl rfl rfl
      · cases ht
    | expire k =>
      rw [step_expire hs] at ht
      rcases expire_cases k (s.withInputs rest) with ⟨-, he⟩ | ⟨hrun, -⟩
      · rw [he] at ht
        cases ht
      · obtain ⟨v, hv⟩ := exists_variant_of_running hrest.sender hrun
        rw [expire_of_running hrest.sender hv hrun] at ht
        exact exec_keeps_inv (.ofTimeout hv k) hrest ht
    | tick =>
      rw [step_tick hs] at ht
      cases ht
      obtain ⟨hwindow, hlen, htimers⟩ := senderInv_iff.1 h.sender
      refine ⟨senderInv_iff.2 ⟨hwindow, (timerTick_length _).trans hlen, fun k => ?_⟩, h.receiver.congr rfl rfl⟩
      exact (running_timerTick k s.ta).symm ▸ htimers k
    | rst v T =>
      rw [step_rst hs] at ht
      cases ht
      exact (inv_init { s.straps with variant := v, timeoutMs := T }).congr rfl rfl rfl rfl

/-- Settles O44: in a state with the invariant `exec_timeout_of_running` says what the expiry does. -/
theorem arbiterTimeoutIsNeverSpurious : Obligations.ArbiterTimeoutIsNeverSpurious := by
  intro s k rest h hs hrun
  have hrest : SenderInv (s.withInputs rest) := h.sender.congr rfl rfl rfl
  obtain ⟨v, hv⟩ := exists_variant_of_running hrest hrun
  obtain ⟨acts, -, hexec⟩ := exec_timeout_of_running hrest hv hrun
  refine ⟨_, (step_expire hs).trans ((expire_of_running hrest hv hrun).trans (hexec s.ta)), rfl, ?_, rfl⟩
  simp [running_timerStart, lt_length_of_running hrun]

/-! ## Widths -/

theorem le_two_pow_ceilLog2 (n : Nat) : n ≤ 2 ^ ceilLog2 n := by
  unfold ceilLog2
  split
  · simpa
  · have := Nat.lt_log2_self (n := n - 1)
    omega

/-- A number up to `W` reads back from a register of `CNT_W` bits. -/
theorem cntReg_toNat (c : Straps) {n : Nat} (h : n ≤ c.windowLen) : (BitVec.ofNat c.cntW n).toNat = n := by
  rw [BitVec.toNat_ofNat, Nat.mod_eq_of_lt]
  exact (Nat.lt_succ_of_le h).trans_le (le_two_pow_ceilLog2 _)

theorem frame_bits {c : Straps} {f : Frame} (h : f.payload.length = c.payloadSize) : 8 * f.toBytes.length = c.frameBits := by
  rw [Frame.toBytes_length, h]
  rfl

/-- `SEQ_W` is the least width above 0 that holds `SEQ_LEN-1` (R8). -/
theorem two_pow_seqW_sub_one_le (c : Straps) : 2 ^ (c.seqW - 1) ≤ c.seqLen - 1 := by
  have hlen := c.one_lt_seqLen
  have hwidth : c.seqW - 1 = (c.seqLen - 1).log2 := by
    unfold Straps.seqW ceilLog2
    rw [if_neg hlen.not_ge]
    omega
  rw [hwidth]
  exact Nat.log2_self_le (by omega)

/-- Settles O55: each register is below the bound of its width by the invariant. -/
theorem registersFitTheirWidths : Obligations.RegistersFitTheirWidths := by
  intro s h
  obtain ⟨hsender, htimers⟩ := senderInv_iff.1 h.sender
  obtain ⟨hreceiver, -, hslots⟩ := receiverInv_iff.1 h.receiver
  have hnext : s.snd.nextseqnum < s.straps.seqLen := hsender.shape.next_eq ▸ seqAdd_lt s.straps.seqLen_pos _ _
  have hkey (k : Nat) (hrun : running k s.ta = true) : k < s.straps.seqLen := htimers.1 ▸ lt_length_of_running hrun
  refine ⟨seqReg_toNat _ hnext, seqReg_toNat _ hsender.shape.base_lt, cntReg_toNat _ hsender.shape.count_le, ?_,
    seqReg_toNat _ hreceiver.base_lt, ?_, fun e he => ?_, fun i f hf => frame_bits (hslots.2 i f hf).2.1,
    fun k hrun => seqReg_toNat _ (hkey k hrun), two_pow_seqW_sub_one_le s.straps⟩
  · have := hsender.dup.1
    rw [Sender.regs_dup, BitVec.toNat_ofNat]
    omega
  · obtain ⟨a, -, ha⟩ := hreceiver.lastAck_canonical
    exact frame_bits (by rw [ha, mkAck_payload, zeroBytes_length])
  · obtain ⟨i, hi⟩ := List.getElem?_of_mem he
    obtain ⟨m, hm, hpkt⟩ := hsender.frames i e hi
    exact frame_bits (by rw [hpkt, mkData_payload, hm])

end Sys2Proof.Machine
end

section
/-! # Deliveries come in sequence-number order (`10_state.md` section 9) -/

namespace Sys2Proof.Machine

/-! ## What a receiver delivers -/

/-- From the receiver `r` to the receiver `r'` the payloads of `fs` were delivered: frames that pass `data_ok`, numbered on from
the base, that arrived or were buffered; and what is buffered afterwards arrived or was buffered. -/
structure Deliveries (c : Straps) (arrived : Frame → Prop) (r r' : Receiver) (fs : List Frame) : Prop where
  ok : ∀ (j : Nat) (f : Frame), fs[j]? = some f →
    dataOk c f = true ∧ f.seqnum.toInt = (seqAdd c.seqLen r.base j : Int) ∧ (arrived f ∨ some f ∈ r.slots)
  base : r'.base = seqAdd c.seqLen r.base fs.length
  slots : ∀ f, some f ∈ r'.slots → arrived f ∨ some f ∈ r.slots

section

variable {c : Straps} {arrived arrived' : Frame → Prop} {r r' r'' : Receiver} {fs gs : List Frame}

theorem Deliveries.none (hb : r.base < c.seqLen) (hbase : r'.base = r.base) (hslots : r'.slots = r.slots) :
    Deliveries c arrived r r' [] where
  ok := nofun
  base := by rw [hbase, List.length_nil, seqAdd_zero hb]
  slots := fun _ hf => .inr (hslots ▸ hf)

theorem Deliveries.mono (h : Deliveries c arrived r r' fs) (hle : ∀ f, arrived f → arrived' f) :
    Deliveries c arrived' r r' fs where
  ok := fun j f hf => (h.ok j f hf).imp_right fun ⟨hseq, hsrc⟩ => ⟨hseq, hsrc.imp_left (hle f)⟩
  base := h.base
  slots := fun f hf => (h.slots f hf).imp_left (hle f)

theorem Deliveries.append (h : Deliveries c arrived r r' fs) (h' : Deliveries c arrived r' r'' gs) :
    Deliveries c arrived r r'' (fs ++ gs) where
  ok := by
    intro j f hf
    rcases lt_or_ge j fs.length with hj | hj
    · exact h.ok j f (List.getElem?_append_left hj ▸ hf)
    · rw [List.getElem?_append_right hj] at hf
      obtain ⟨hok, hseq, hsrc⟩ := h'.ok _ f hf
      refine ⟨hok, ?_, hsrc.elim .inl (h.slots f)⟩
      rw [hseq, h.base, seqAdd_seqAdd, Nat.add_sub_cancel' hj]
  base := by rw [h'.base, h.base, seqAdd_seqAdd, List.length_append]
  slots := fun f hf => (h'.slots f hf).elim .inl (h.slots f)

end

/-! ## One event -/

theorem delivered_map_deliver (e : Option Engine) (d : Option Disposition) (fs : List Frame) :
    Report.delivered ⟨e, fs.map fun g => .deliver g.payload, d⟩ = fs.map (·.payload) := by
  simp only [Report.delivered, List.filterMap_map, Function.comp_def, Action.delivered, List.filterMap_eq_map']

/-- The frame a `DATA` event brings. -/
def Brings (i : Instr) (f : Frame) : Prop := ∃ v, i = .ofData f v

theorem mem_of_mem_store {l : List (Option Frame)} {i : Nat} {f g : Frame} (h : some g ∈ l.set i (some f)) :
    g = f ∨ some g ∈ l :=
  (List.mem_or_eq_of_mem_set h).symm.imp_left Option.some_inj.1

theorem ExecCase.deliveries {s u : State} {i : Instr} {d : Disposition} {acts : List Action}
    (hcase : ExecCase s i d acts u) (hi : Fits s i) (h : SlotsInv s.straps s.rcv) (e : Option Engine) (d' : Option Disposition) :
    ∃ fs, Report.delivered ⟨e, acts, d'⟩ = fs.map (·.payload) ∧ Deliveries s.straps (Brings i) s.rcv u.rcv fs := by
  have hshape := h.1
  by_cases hk : i.kind = .data
  · cases hcase with
    | raised | resendAck | srSeen => exact ⟨[], rfl, .none hshape.base_lt rfl rfl⟩
    | @inOrder _ f hi' hck hq hlt =>
      have hbrings : Brings i f := by
        rcases hi' with rfl | rfl
        · exact ⟨.gbn, rfl⟩
        · exact ⟨.tcp, rfl⟩
      refine ⟨[f], rfl, ⟨fun j g hg => ?_, rfl, fun _ hg => .inr hg⟩⟩
      obtain ⟨rfl, rfl⟩ : j = 0 ∧ f = g := by simpa [List.getElem?_singleton] using hg
      refine ⟨by simp [dataOk, valid, inRange, hck, hq, hlt], ?_, .inl hbrings⟩
      rw [seqAdd_zero hlt, hq]
    | @srNew f q idx hck hq hlt hidx _ _ =>
      have hf : dataOk s.straps f = true := by simp [dataOk, valid, inRange, hck, hq, hlt]
      have hp : f.payload.length = s.straps.payloadSize := hi.data f rfl ((valid_iff ..).2 hck)
      have hnumber : f.seqnum.toInt = (seqAdd s.straps.seqLen s.rcv.base idx : Int) := by
        rw [hidx, seqAdd_seqDist hlt hshape.base_lt, hq]
      have hsource (g : Frame) (hg : some g ∈ s.rcv.slots.set idx (some f)) : Brings (.srData f) g ∨ some g ∈ s.rcv.slots :=
        (mem_of_mem_store hg).imp_left fun hgf => ⟨.sr, congrArg Instr.srData hgf.symm⟩
      obtain ⟨fs, hfs⟩ := exists_receivedPrefix_eq_map_some (s.rcv.slots.set idx (some f))
      rw [deliverLoop_store hshape _ hfs]
      refine ⟨fs, delivered_map_deliver e d' fs, ⟨fun j g hg => ?_, rfl, fun g hg => ?_⟩⟩
      · have hslot : (s.rcv.slots.set idx (some f))[j]? = some (some g) := by
          have hprefix : receivedPrefix (s.rcv.slots.set idx (some f)) <+: s.rcv.slots.set idx (some f) := List.takeWhile_prefix _
          rw [hfs] at hprefix
          exact getElem?_of_prefix hprefix (by rw [List.getElem?_map, hg]; rfl)
        obtain ⟨hok, -, hseq⟩ := h.store_slot hf hp hnumber (by rw [hslot]; rfl)
        exact ⟨hok, hseq, hsource g (List.mem_of_getElem? hslot)⟩
      · rcases List.mem_append.1 hg with hold | hblank
        · exact hsource g (List.mem_of_mem_drop hold)
        · exact absurd (List.eq_of_mem_replicate hblank) nofun
    | fifoSend hi' => rcases hi' with rfl | rfl <;> cases hk
    | srSend | gbnAckCovered | gbnAckStale | gbnTimeout | srAck | srTimeout | tcpAckProgress | tcpAckCounted | tcpAckThirdEmpty |
      tcpAckThird | tcpTimeout => cases hk
  · have hengine : i.kind.engine = .sender := by
      revert hk
      cases i.kind <;> simp [EventKind.engine]
    have hrcv := hcase.untouched.rcv hengine
    exact ⟨[], delivered_of_sender e d' (hengine ▸ hcase.actions_engine), .none hshape.base_lt (hrcv ▸ rfl) (hrcv ▸ rfl)⟩

/-! ## One step -/

/-- The frame arrives in a `DATA` event among the inputs. -/
def ArrivesIn (inputs : List Stimulus) (f : Frame) : Prop := .event (EventKind.data.code :: f.toBytes) ∈ inputs

theorem arrivesIn_of_decode {v : BitVec 2} {P : Nat} {w : List Byte} {i : Instr} {f : Frame} {rest : List Stimulus}
    (h : decode v P w = .ok i) (hf : Brings i f) : ArrivesIn (.event w :: rest) f := by
  obtain ⟨r, k, i0, i1, i2, p, -, -, rfl, rfl⟩ := decode_ok_cases h
  obtain ⟨r', hr⟩ := hf
  have hfield : k = .data ∧ f = ⟨i0, i1, i2, p⟩ := by
    cases r <;> cases r' <;> cases k <;> cases hr <;> exact ⟨rfl, rfl⟩
  obtain ⟨rfl, rfl⟩ := hfield
  exact List.mem_cons_self

/-- An event delivers as its case says, into the state it leaves. -/
theorem exec_deliveries {i : Instr} {s t : State} (hi : Fits s i) (h : s.Inv) (ht : exec i s = .next t) :
    ∃ fs, t.out.delivered = fs.map (·.payload) ∧ Deliveries s.straps (Brings i) s.rcv t.rcv fs ∧
      t.straps = s.straps ∧ t.inputs = s.inputs := by
  obtain ⟨d, acts, u, hcase, rfl⟩ := exec_next_cases ht
  obtain ⟨fs, hout, hfs⟩ := hcase.deliveries hi (receiverInv_iff.1 h.receiver) _ _
  exact ⟨fs, hout, hfs, hcase.untouched.straps, hcase.untouched.inputs⟩

theorem step_deliveries {s t : State} (h : s.Inv) (hrst : ∀ x ∈ s.inputs, ∀ v T, x ≠ .rst v T) (ht : step s = .next t) :
    ∃ fs, t.out.delivered = fs.map (·.payload) ∧ Deliveries s.straps (ArrivesIn s.inputs) s.rcv t.rcv fs ∧
      t.straps = s.straps ∧ t.inputs = s.inputs.tail := by
  have silent : Deliveries s.straps (ArrivesIn s.inputs) s.rcv s.rcv [] := .none h.receiver.shape.base_lt rfl rfl
  cases hs : s.inputs with
  | nil =>
    rw [step_idle hs] at ht
    cases ht
    exact ⟨[], rfl, hs ▸ silent, rfl, hs⟩
  | cons x rest =>
    have hrest : (s.withInputs rest).Inv := h.congr rfl rfl rfl rfl
    rw [hs] at silent
    cases x with
    | event w =>
      rw [step_event hs] at ht
      rcases serve_cases w (s.withInputs rest) with ⟨i, hd, hi⟩ | hi | ⟨-, hi⟩ <;> rw [hi] at ht
      · obtain ⟨fs, hout, hfs, hstraps, hinputs⟩ := exec_deliveries (.of_decode hd) hrest ht
        exact ⟨fs, hout, hfs.mono fun f => arrivesIn_of_decode hd, hstraps, hinputs⟩
      · cases ht
        exact ⟨[], rfl, silent, rfl, rfl⟩
      · cases ht
    | expire k =>
      rw [step_expire hs] at ht
      rcases expire_cases k (s.withInputs rest) with ⟨-, he⟩ | ⟨hrun, -⟩
      · rw [he] at ht
        cases ht
      · obtain ⟨v, hv⟩ := exists_variant_of_running hrest.sender hrun
        rw [expire_of_running hrest.sender hv hrun] at ht
        obtain ⟨fs, hout, hfs, hstraps, hinputs⟩ := exec_deliveries (.ofTimeout hv k) hrest ht
        refine ⟨fs, hout, hfs.mono fun f ⟨v', hf⟩ => ?_, hstraps, hinputs⟩
        cases v <;> cases v' <;> cases hf
    | tick =>
      rw [step_tick hs] at ht
      cases ht
      exact ⟨[], rfl, silent, rfl, rfl⟩
    | rst v T => exact absurd rfl (hrst _ (hs ▸ List.mem_cons_self) v T)

/-! ## Runs -/

theorem runReports_succ {s t : State} (h : step s = .next t) (n : Nat) : runReports (n + 1) s = t.out :: runReports n t := by
  rw [runReports, h]

theorem runState_succ {s t : State} (h : step s = .next t) (n : Nat) : runState (n + 1) s = runState n t := by
  rw [runState, h]

/-- Along a run without resets the deliveries of the steps add up. -/
theorem run_deliveries (n : Nat) {s : State} (h : s.Inv) (hrst : ∀ x ∈ s.inputs, ∀ v T, x ≠ .rst v T) :
    ∃ fs r, (runReports n s).flatMap Report.delivered = fs.map (·.payload) ∧
      Deliveries s.straps (ArrivesIn s.inputs) s.rcv r fs ∧ ∀ t, runState n s = some t → t.rcv = r := by
  induction n generalizing s with
  | zero => exact ⟨[], s.rcv, rfl, .none h.receiver.shape.base_lt rfl rfl, fun t ht => (Option.some_inj.1 ht) ▸ rfl⟩
  | succ n ih =>
    cases hstep : step s with
    | next t =>
      obtain ⟨fs, hout, hfs, hstraps, hinputs⟩ := step_deliveries h hrst hstep
      have hrest : ∀ x ∈ t.inputs, x ∈ s.inputs := fun x hx => List.mem_of_mem_tail (hinputs ▸ hx)
      obtain ⟨gs, r, hout', hgs, hlast⟩ := ih (stepKeepsTheInvariant s t h hstep) fun x hx => hrst x (hrest x hx)
      rw [hstraps] at hgs
      refine ⟨fs ++ gs, r, ?_, hfs.append (hgs.mono fun f => hrest _), by rwa [runState_succ hstep]⟩
      rw [runReports_succ hstep, List.flatMap_cons, hout, hout', List.map_append]
    | fault f => cases f
    | refused r =>
      refine ⟨[], s.rcv, by rw [runReports, hstep]; rfl, .none h.receiver.shape.base_lt rfl rfl, fun t ht => ?_⟩
      rw [runState, hstep] at ht
      cases ht

/-- Settles O56: the frames of `run_deliveries`. -/
theorem runDeliversInSequenceOrder : Obligations.RunDeliversInSequenceOrder := by
  intro s n h hrst
  obtain ⟨fs, r, hout, hfs, hlast⟩ := run_deliveries n h hrst
  exact ⟨fs, hout, hfs.ok, fun t ht => hlast t ht ▸ hfs.base⟩

end Sys2Proof.Machine
end

section
/-! # The closed system delivers the messages in order (`70_reset_and_hazards.md` R300)

Messages are counted from 0, and message `j` has number `j mod SEQ_LEN`. An acknowledgment is counted by the number `x` of messages
up to the one it was built for, so that `x = 0` is the ACK cached at reset: its index is `x - 1` and its number `x + SEQ_LEN - 1`
modulo `SEQ_LEN`. -/

namespace Sys2Proof.Machine

/-! ## Numbers of messages -/

section

variable {L b j n : Nat}

theorem seqAdd_mod (L b n : Nat) : seqAdd L (b % L) n = (b + n) % L := Nat.mod_add_mod ..

theorem seqDist_mod_of_le (h : b ≤ j) (hlt : j < b + L) : seqDist L (j % L) (b % L) = j - b := by
  have hL : 0 < L := by omega
  rw [seqDist_eq_iff (Nat.mod_lt _ hL) (Nat.mod_lt _ hL) (by omega), seqAdd_mod, Nat.add_sub_cancel' h]

theorem seqDist_mod_of_lt (h : j < b) (hle : b ≤ j + L) : seqDist L (j % L) (b % L) = j + L - b := by
  rw [← Nat.add_mod_right j L]
  exact seqDist_mod_of_le hle (by omega)

/-- Of `SEQ_LEN` messages in a row each has a number of its own. -/
theorem eq_of_mod_eq {i lo : Nat} (h : i % L = j % L) (hi : lo ≤ i) (hj : lo ≤ j) (hi' : i < lo + L) (hj' : j < lo + L) :
    i = j := by
  have hdist := congrArg (seqDist L · (lo % L)) h
  simp only [seqDist_mod_of_le hi hi', seqDist_mod_of_le hj hj'] at hdist
  omega

/-- The number of the acknowledgment built after `x` messages. -/
def ackNum (L x : Nat) : Nat := (x + (L - 1)) % L

theorem ackNum_lt (hL : 0 < L) (x : Nat) : ackNum L x < L := Nat.mod_lt _ hL

theorem ackNum_succ (hL : 0 < L) (j : Nat) : ackNum L (j + 1) = j % L := by
  rw [ackNum, Nat.add_assoc, Nat.add_sub_cancel' hL, Nat.add_mod_right]

theorem seqInc_ackNum (hL : 0 < L) (x : Nat) : seqInc L (ackNum L x) = x % L := by
  rw [seqInc, ackNum, Nat.mod_add_mod, Nat.add_assoc, Nat.sub_add_cancel hL, Nat.add_mod_right]

theorem seqPrev_mod (hL : 1 < L) (x : Nat) : seqPrev L (x % L) = ackNum L x := by
  rw [seqPrev, seqDist_eq_seqAdd_sub (Nat.mod_lt _ (by omega)) hL, seqAdd_mod, ackNum]

/-- The offset of an acknowledgment of something in the window. -/
theorem seqDist_ackNum_of_lt {x : Nat} (h : b < x) (hlt : x ≤ b + L) : seqDist L (ackNum L x) (b % L) = x - 1 - b := by
  obtain ⟨j, rfl⟩ := Nat.exists_eq_add_of_lt (Nat.zero_lt_of_lt h)
  rw [Nat.zero_add, ackNum_succ (by omega), seqDist_mod_of_le (by omega) (by omega)]
  rfl

/-- The offset of an acknowledgment of something before the window. -/
theorem seqDist_ackNum_of_le {x : Nat} (h : x ≤ b) (hlt : b < x + L) : seqDist L (ackNum L x) (b % L) = x + L - 1 - b := by
  rw [ackNum, seqDist_mod_of_le (by omega) (by omega)]
  omega

end

/-! ## Built frames are read back -/

section

variable {c : Straps} (hfits : c.FitsWire)
include hfits

theorem readAcknum_mkAck {a : Nat} (ha : a < c.seqLen) : readAcknum c (mkAck c a) = .ok a :=
  readField_ok rfl (toInt_ofNat_of_lt (ha.trans_le hfits)) ha

theorem readSeqnum_mkData {q : Nat} (hq : q < c.seqLen) (m : List Byte) : readSeqnum c (mkData c q m) = .ok q :=
  readField_ok rfl (toInt_ofNat_of_lt (hq.trans_le hfits)) hq

theorem ofNat32_inj {m n : Nat} (hm : m < c.seqLen) (hn : n < c.seqLen) (h : BitVec.ofNat 32 m = BitVec.ofNat 32 n) : m = n := by
  have htoInt := congrArg BitVec.toInt h
  rw [toInt_ofNat_of_lt (hm.trans_le hfits), toInt_ofNat_of_lt (hn.trans_le hfits)] at htoInt
  exact Int.ofNat_inj.1 htoInt

end

/-! ## The invariant -/

/-- How many messages have left A's window. -/
def ClosedSystem.acked (y : ClosedSystem) : Nat := y.messages.length - y.a.snd.count

/-- A receiver that has delivered `n` messages has message `i`: it is delivered or buffered. -/
def Has (n : Nat) (r : Receiver) (i : Nat) : Prop := i < n ∨ ∃ k f, i = n + k ∧ rwGet k r = some f

/-- B has message `i`. -/
def ClosedSystem.Received (y : ClosedSystem) (i : Nat) : Prop := Has y.delivered.length y.b.rcv i

/-- An acknowledgment with its index, built after `x` messages, the last of which B has. -/
def AckBuilt (c : Straps) (y : ClosedSystem) (p : Int × Frame) (x : Nat) : Prop :=
  p = ((x : Int) - 1, mkAck c (ackNum c.seqLen x)) ∧ ∀ i, x = i + 1 → y.Received i

/-- The invariant of the closed system: A's window is the end of the list of frames, B's deliveries are the front of the list of
messages, A drops only what B has delivered, and a mark at A and an acknowledgment are for something B has. -/
structure ClosedInv (c : Straps) (T : Word32) (y : ClosedSystem) : Prop where
  strapsA : y.a.straps = c
  strapsB : y.b.straps = { c with timeoutMs := T }
  invA : y.a.Inv
  invB : y.b.Inv
  lengths : ∀ m ∈ y.messages, m.length = c.payloadSize
  frames : y.frames = y.messages.mapIdx fun j m => mkData c (j % c.seqLen) m
  window : y.a.snd.win.map (·.pkt) = y.frames.drop y.acked
  base : y.a.snd.base = y.acked % c.seqLen
  marks : ∀ i e, y.a.snd.win[i]? = some e → e.acked = true → y.Received (y.acked + i)
  acked_le : y.acked ≤ y.delivered.length
  rbase : y.b.rcv.base = y.delivered.length % c.seqLen
  slots : ∀ i f, rwGet i y.b.rcv = some f → y.frames[y.delivered.length + i]? = some f
  delivered : y.delivered = y.messages.take y.delivered.length
  acks : ∀ p ∈ y.acks, ∃ x, AckBuilt c y p x

theorem ClosedInv.start (c : Straps) (T : Word32) : ClosedInv c T (ClosedSystem.start c T) where
  strapsA := rfl
  strapsB := rfl
  invA := inv_init c
  invB := inv_init _
  lengths := nofun
  frames := rfl
  window := rfl
  base := (Nat.zero_mod _).symm
  marks := nofun
  acked_le := Nat.zero_le _
  rbase := (Nat.zero_mod _).symm
  slots := fun i _ hf => absurd ((rwGet_init _ i).symm.trans hf) nofun
  delivered := rfl
  acks := nofun

section

variable {c : Straps} {T : Word32} {y : ClosedSystem} (h : ClosedInv c T y)
include h

theorem ClosedInv.frames_length : y.frames.length = y.messages.length := by rw [h.frames, List.length_mapIdx]

/-- A's window and what has left it are all messages. -/
theorem ClosedInv.acked_add_count : y.acked + y.a.snd.count = y.messages.length := by
  have hlen := congrArg List.length h.window
  rw [List.length_map, List.length_drop, h.frames_length, ClosedSystem.acked] at hlen
  rw [ClosedSystem.acked, Sender.count]
  rw [Sender.count] at hlen
  omega

theorem ClosedInv.delivered_le : y.delivered.length ≤ y.messages.length := by
  have hlen := congrArg List.length h.delivered
  rw [List.length_take] at hlen
  omega

/-- A is at most `W` messages ahead of what has left its window. -/
theorem ClosedInv.messages_le : y.messages.length ≤ y.acked + c.windowLen := by
  have hcount := h.invA.sender.shape.count_le
  rw [h.strapsA] at hcount
  have := h.acked_add_count
  omega

theorem ClosedInv.frame_eq {j : Nat} {f : Frame} (hf : y.frames[j]? = some f) :
    ∃ m, y.messages[j]? = some m ∧ f = mkData c (j % c.seqLen) m := by
  rw [h.frames, List.getElem?_mapIdx, Option.map_eq_some_iff] at hf
  obtain ⟨m, hm, rfl⟩ := hf
  exact ⟨m, hm, rfl⟩

theorem ClosedInv.lt_of_frame {j : Nat} {f : Frame} (hf : y.frames[j]? = some f) : j < y.messages.length :=
  h.frames_length ▸ (List.getElem?_eq_some_iff.1 hf).1

/-- What B has, A has sent. -/
theorem ClosedInv.lt_of_received {i : Nat} (hi : y.Received i) : i < y.messages.length := by
  rcases hi with hlt | ⟨k, f, rfl, hf⟩
  · exact hlt.trans_le h.delivered_le
  · exact h.lt_of_frame (h.slots k f hf)

/-- B does not have the message it waits for. -/
theorem ClosedInv.not_received : ¬ y.Received y.delivered.length := by
  rintro (hlt | ⟨k, f, hk, hf⟩)
  · exact absurd hlt (lt_irrefl _)
  · obtain rfl : k = 0 := by omega
    exact absurd (h.invB.receiver.slots.1.symm.trans hf) nofun

end

/-! ## A's window slides -/

/-- A moves to `a'`, and `n` entries leave its window; what is marked then, B has. -/
structure Slides (y : ClosedSystem) (a' : State) (n : Nat) : Prop where
  straps : a'.straps = y.a.straps
  inv : a'.Inv
  window : a'.snd.win.map (·.pkt) = (y.a.snd.win.map (·.pkt)).drop n
  base : a'.snd.base = seqAdd y.a.straps.seqLen y.a.snd.base n
  count : n ≤ y.a.snd.count
  delivered : y.acked + n ≤ y.delivered.length
  marks : ∀ i e, a'.snd.win[i]? = some e → e.acked = true → y.Received (y.acked + n + i)

section

variable {c : Straps} {T : Word32} {y : ClosedSystem} {a' : State}

theorem Slides.count_eq {n : Nat} (hs : Slides y a' n) : a'.snd.count = y.a.snd.count - n := by
  simpa only [List.length_map, List.length_drop, Sender.count] using congrArg List.length hs.window

variable (h : ClosedInv c T y)
include h

theorem ClosedInv.acked_slide {n : Nat} (hs : Slides y a' n) : ({ y with a := a' } : ClosedSystem).acked = y.acked + n := by
  have hall := h.acked_add_count
  have hn := hs.count
  show y.messages.length - a'.snd.count = _
  rw [hs.count_eq]
  omega

theorem ClosedInv.slide {n : Nat} (hs : Slides y a' n) : ClosedInv c T { y with a := a' } where
  strapsA := hs.straps.trans h.strapsA
  strapsB := h.strapsB
  invA := hs.inv
  invB := h.invB
  lengths := h.lengths
  frames := h.frames
  window := by rw [h.acked_slide hs, hs.window, h.window, List.drop_drop]
  base := by rw [h.acked_slide hs, hs.base, h.strapsA, h.base, seqAdd_mod]
  marks := fun i e he hacked => h.acked_slide hs ▸ hs.marks i e he hacked
  acked_le := h.acked_slide hs ▸ hs.delivered
  rbase := h.rbase
  slots := h.slots
  delivered := h.delivered
  acks := h.acks

/-- An event that leaves the window, the base and the straps. -/
theorem ClosedInv.slides_zero (hstraps : a'.straps = y.a.straps) (hinv : a'.Inv) (hwin : a'.snd.win = y.a.snd.win)
    (hbase : a'.snd.base = y.a.snd.base) : Slides y a' 0 where
  straps := hstraps
  inv := hinv
  window := by rw [hwin, List.drop_zero]
  base := by rw [hbase, seqAdd_zero h.invA.sender.shape.base_lt]
  count := Nat.zero_le _
  delivered := h.acked_le
  marks := fun i e he hacked => h.marks i e (hwin ▸ he) hacked

end

end Sys2Proof.Machine
end

section
/-! # A's events in the closed system (`70_reset_and_hazards.md` R300) -/

namespace Sys2Proof.Machine

section

variable {s : State} {v : Variant}

theorem Fits.ofAck (hv : s.straps.variant = v.code) (f : Frame) : Fits s (.ofAck f v) := by
  cases v <;> exact ⟨hv.symm, nofun, nofun⟩

theorem Fits.ofSend (hv : s.straps.variant = v.code) {m : List Byte} (hm : m.length = s.straps.payloadSize) :
    Fits s (.ofSend m v) :=
  .of_wf (by cases v <;> exact hv.symm) (by cases v <;> exact decide_eq_true hm)

/-- A frame that fails its checksum does nothing at a sender. -/
theorem exec_ack_of_corrupt {f : Frame} (hf : valid s.straps f = false) (v : Variant) :
    exec (.ofAck f v) s = raise .sender .corrupt s := by
  have hread : readAcknum s.straps f = .error .corrupt := by rw [readAcknum, readField, hf]; rfl
  cases v with
  | gbn => exact execGbnAck_of_error hread
  | sr => exact execSrAck_of_error hread
  | tcp => exact execTcpAck_of_error hread

/-- A `SEND` of any variant appends the packet and transmits it, or it finds the window full and does nothing. -/
theorem exec_send_cases {t : State} {m : List Byte} (ht : exec (.ofSend m v) s = .next t) :
    t.straps = s.straps ∧ t.snd.base = s.snd.base ∧
      ((t.snd.win = s.snd.win ∧ t.out.dataFrames = [] ∧ accepted t.out = false) ∨
       (t.snd.win = s.snd.win ++ [⟨mkData s.straps s.snd.nextseqnum m, false⟩] ∧
         t.out.dataFrames = [mkData s.straps s.snd.nextseqnum m] ∧ accepted t.out = true)) := by
  cases v with
  | gbn | tcp =>
    rcases sendFifo_cases m s with ⟨-, hsend⟩ | ⟨-, hsend⟩
    · obtain rfl := Host.Outcome.next.inj (hsend.symm.trans ht)
      exact ⟨rfl, rfl, .inl ⟨rfl, rfl, rfl⟩⟩
    · obtain rfl := Host.Outcome.next.inj (hsend.symm.trans ht)
      refine ⟨rfl, rfl, .inr ⟨rfl, ?_, rfl⟩⟩
      show Report.dataFrames ⟨_, .txData _ :: (if _ then _ else _), _⟩ = _
      split <;> rfl
  | sr =>
    rcases execSrSend_cases m s with ⟨-, hsend⟩ | ⟨-, hsend⟩
    · obtain rfl := Host.Outcome.next.inj (hsend.symm.trans ht)
      exact ⟨rfl, rfl, .inl ⟨rfl, rfl, rfl⟩⟩
    · obtain rfl := Host.Outcome.next.inj (hsend.symm.trans ht)
      exact ⟨rfl, rfl, .inr ⟨rfl, rfl, rfl⟩⟩

end

section

variable {c : Straps} {T : Word32} {y : ClosedSystem} {a' : State} {v : Variant} {x : Nat} (h : ClosedInv c T y)
include h

theorem ClosedInv.variantA (hv : c.variant = v.code) : y.a.straps.variant = v.code := h.strapsA ▸ hv

/-! ## Expiries and corrupt acknowledgments -/

theorem ClosedInv.expiry_slides (hv : c.variant = v.code) {k : Word32} (hx : expire k y.a = .next a') : Slides y a' 0 := by
  have hvA := h.variantA hv
  rcases expire_cases k y.a with ⟨-, he⟩ | ⟨hrun, -⟩
  · exact absurd (he.symm.trans hx) nofun
  · rw [expire_of_running h.invA.sender hvA hrun] at hx
    have hinv := exec_keeps_inv (.ofTimeout hvA k) h.invA hx
    obtain ⟨acts, -, hexec⟩ := exec_timeout_of_running h.invA.sender hvA hrun
    obtain rfl := Host.Outcome.next.inj ((hexec y.a.ta).symm.trans hx)
    exact h.slides_zero rfl hinv rfl rfl

theorem ClosedInv.corruptAck_slides (hv : c.variant = v.code) {f : Frame} (hf : valid c f = false)
    (hx : exec (.ofAck f v) y.a = .next a') : Slides y a' 0 := by
  have hinv := exec_keeps_inv (.ofAck (h.variantA hv) f) h.invA hx
  obtain rfl := Host.Outcome.next.inj ((exec_ack_of_corrupt (h.strapsA.symm ▸ hf) v).symm.trans hx)
  exact h.slides_zero rfl hinv rfl rfl

/-! ## Messages of the application -/

theorem ClosedInv.nextseqnum : y.a.snd.nextseqnum = y.messages.length % c.seqLen := by
  rw [h.invA.sender.shape.next_eq, h.strapsA, h.base, seqAdd_mod, h.acked_add_count]

omit h in
theorem acked_push {m : List Byte} {e : Entry} (hwin : a'.snd.win = y.a.snd.win ++ [e]) :
    (y.messages ++ [m]).length - a'.snd.count = y.acked := by
  rw [Sender.count, hwin, List.length_append, List.length_append, List.length_singleton, List.length_singleton,
    Nat.add_sub_add_right]
  rfl

/-- A message more: its packet stands at the end of the window and of the list of frames. -/
theorem ClosedInv.push {m : List Byte} (hm : m.length = c.payloadSize) (hstraps : a'.straps = y.a.straps) (hinv : a'.Inv)
    (hwin : a'.snd.win = y.a.snd.win ++ [⟨mkData c (y.messages.length % c.seqLen) m, false⟩])
    (hbase : a'.snd.base = y.a.snd.base) :
    ClosedInv c T { y with
      a := a', messages := y.messages ++ [m], frames := y.frames ++ [mkData c (y.messages.length % c.seqLen) m] } := by
  have hall := h.acked_add_count
  have hle := h.delivered_le
  have hacked := acked_push (m := m) hwin
  have hframes (j : Nat) (f : Frame) (hf : y.frames[j]? = some f) :
      (y.frames ++ [mkData c (y.messages.length % c.seqLen) m])[j]? = some f :=
    getElem?_of_prefix (List.prefix_append _ _) hf
  exact {
    strapsA := hstraps.trans h.strapsA
    strapsB := h.strapsB
    invA := hinv
    invB := h.invB
    lengths := by simpa [or_imp, forall_and, hm] using h.lengths
    frames := by rw [h.frames, List.mapIdx_concat]
    window := by
      rw [ClosedSystem.acked, hacked, hwin, List.map_append, h.window,
        List.drop_append_of_le_length (by rw [h.frames_length]; omega)]
      rfl
    base := by rw [ClosedSystem.acked, hacked, hbase, h.base]
    marks := by
      intro i e he hmark
      rw [ClosedSystem.acked, hacked]
      rcases getElem?_concat_cases (hwin ▸ he) with hold | ⟨-, rfl⟩
      · exact h.marks i e hold hmark
      · cases hmark
    acked_le := by rw [ClosedSystem.acked, hacked]; exact h.acked_le
    rbase := h.rbase
    slots := fun i f hf => hframes _ f (h.slots i f hf)
    delivered := by rw [List.take_append_of_le_length hle]; exact h.delivered
    acks := h.acks }

/-- A `SEND` at the end of the messages, or at a full window, where nothing is accepted and nothing sent. -/
theorem ClosedInv.send (hv : c.variant = v.code) {m : List Byte} (hm : m.length = c.payloadSize)
    (hx : exec (.ofSend m v) y.a = .next a') {y' : ClosedSystem}
    (hy : y' = { y with
      a := a'
      messages := y.messages ++ (if accepted a'.out then [m] else [])
      frames := y.frames ++ a'.out.dataFrames }) :
    ClosedInv c T y' ∧ y.acked ≤ y'.acked := by
  have hinv := exec_keeps_inv (.ofSend (h.variantA hv) (h.strapsA ▸ hm)) h.invA hx
  obtain ⟨hstraps, hbase, ⟨hwin, hframes, hacc⟩ | ⟨hwin, hframes, hacc⟩⟩ := exec_send_cases hx
  · have hslides := h.slides_zero hstraps hinv hwin hbase
    simp only [hframes, hacc, Bool.false_eq_true, if_false, List.append_nil] at hy
    subst hy
    exact ⟨h.slide hslides, (h.acked_slide hslides).ge⟩
  · rw [h.strapsA, h.nextseqnum] at hwin hframes
    simp only [hframes, hacc, if_true] at hy
    subst hy
    exact ⟨h.push hm hstraps hinv hwin hbase, (acked_push hwin).ge⟩

/-! ## Acknowledgments -/

/-- What an acknowledgment built after `x` messages does at A: some entries leave the window, and at least one if `x` is past the
window's front (in SR, if it is the front's own). -/
def AckSlides (v : Variant) (y : ClosedSystem) (a' : State) (x : Nat) : Prop :=
  ∃ n, Slides y a' n ∧ (y.acked < x → (v = .sr → x = y.acked + 1) → 0 < n)

/-- The hypotheses of an acknowledgment that arrives: it was built after `x` messages, and it is young enough. -/
structure Arrives (c : Straps) (y : ClosedSystem) (x : Nat) : Prop where
  received : ∀ i, x = i + 1 → y.Received i
  age : y.messages.length + 1 < x + c.seqLen

theorem ClosedInv.ack_le (hx : Arrives c y x) : x ≤ y.messages.length := by
  cases x with
  | zero => exact Nat.zero_le _
  | succ i => exact h.lt_of_received (hx.received i rfl)

/-- A cumulative acknowledgment is for something delivered. -/
theorem ClosedInv.ack_le_delivered (hx : Arrives c y x) (hv : c.variant ≠ 1#2) : x ≤ y.delivered.length := by
  cases x with
  | zero => exact Nat.zero_le _
  | succ i =>
    rcases hx.received i rfl with hlt | ⟨k, f, -, hf⟩
    · exact hlt
    · have hblank := (h.invB.receiver.cumulative (h.strapsB ▸ hv)).2 k
      exact absurd (hblank.symm.trans hf) nofun

theorem ClosedInv.readAcknum_eq (hfits : c.FitsWire) (x : Nat) :
    readAcknum y.a.straps (mkAck c (ackNum c.seqLen x)) = .ok (ackNum c.seqLen x) :=
  h.strapsA.symm ▸ readAcknum_mkAck hfits (ackNum_lt c.seqLen_pos x)

/-- An acknowledgment of something in the window, by the offset of its number. -/
theorem ClosedInv.ack_offset (hx : Arrives c y x) (hlt : y.acked < x) :
    seqDist y.a.straps.seqLen (ackNum c.seqLen x) y.a.snd.base = x - 1 - y.acked := by
  have := h.ack_le hx
  have := h.messages_le
  have := c.windowLen_lt_seqLen
  rw [h.strapsA, h.base, seqDist_ackNum_of_lt hlt (by omega)]

/-- An acknowledgment of something before the window has an offset past the window. -/
theorem ClosedInv.ack_offset_stale (hx : Arrives c y x) (hle : x ≤ y.acked) :
    y.a.snd.count < seqDist y.a.straps.seqLen (ackNum c.seqLen x) y.a.snd.base := by
  have := hx.age
  have := h.acked_add_count
  rw [h.strapsA, h.base, seqDist_ackNum_of_le hle (by omega)]
  omega

/-- A cumulative pop up to the acknowledged message. -/
theorem ClosedInv.pop_slides (hx : Arrives c y x) (hv : c.variant ≠ 1#2) (hle : y.acked ≤ x) (hinv : a'.Inv)
    (hstraps : a'.straps = y.a.straps) (hwin : a'.snd.win = y.a.snd.win.drop (x - y.acked))
    (hbase : a'.snd.base = seqAdd y.a.straps.seqLen y.a.snd.base (x - y.acked)) : Slides y a' (x - y.acked) where
  straps := hstraps
  inv := hinv
  window := by rw [hwin, List.map_drop]
  base := hbase
  count := by
    have := h.ack_le hx
    have := h.acked_add_count
    omega
  delivered := by
    have := h.ack_le_delivered hx hv
    omega
  marks := fun i e he hmark =>
    absurd (hinv.sender.marks.1 (hstraps ▸ h.strapsA ▸ hv) e (List.mem_of_getElem? he)) (by simp [hmark])

/-- `GBN.ACK`: the window slides up to the acknowledged message. -/
theorem ClosedInv.gbnAck_slides (hv : c.variant = Variant.gbn.code) (hfits : c.FitsWire) (hx : Arrives c y x)
    (ha : exec (.gbnAck (mkAck c (ackNum c.seqLen x))) y.a = .next a') : AckSlides .gbn y a' x := by
  have hread := h.readAcknum_eq hfits x
  have hinv := exec_keeps_inv (.ofAck (h.variantA hv) _) h.invA ha
  have hxle := h.ack_le hx
  have hle := h.messages_le
  have hlen := c.windowLen_lt_seqLen
  have hall := h.acked_add_count
  have hdist : seqDist y.a.straps.seqLen (seqInc y.a.straps.seqLen (ackNum c.seqLen x)) y.a.snd.base =
      seqDist c.seqLen (x % c.seqLen) (y.acked % c.seqLen) := by
    rw [h.strapsA, seqInc_ackNum c.seqLen_pos, h.base]
  rcases le_or_gt y.acked x with hcovered | hstale
  · have hn : x - y.acked = seqDist y.a.straps.seqLen (seqInc y.a.straps.seqLen (ackNum c.seqLen x)) y.a.snd.base := by
      rw [hdist, seqDist_mod_of_le hcovered (by omega)]
    have hstep := (execGbnAck_of_covered hread hn (by omega)).trans (done_stop_restart ..)
    obtain rfl := Host.Outcome.next.inj (hstep.symm.trans ha)
    exact ⟨_, h.pop_slides hx (hv ▸ by decide) hcovered hinv rfl rfl rfl, fun hlt _ => Nat.sub_pos_of_lt hlt⟩
  · have hage := hx.age
    have hn : y.a.snd.count < seqDist y.a.straps.seqLen (seqInc y.a.straps.seqLen (ackNum c.seqLen x)) y.a.snd.base := by
      rw [hdist, seqDist_mod_of_lt hstale (by omega)]
      omega
    have hstep := (execGbnAck_of_uncovered hread rfl hn).trans (done_stop_restart ..)
    obtain rfl := Host.Outcome.next.inj (hstep.symm.trans ha)
    exact ⟨0, h.slides_zero rfl hinv rfl rfl, fun hlt => absurd hlt hstale.not_gt⟩

omit h in
/-- A `TCP.ACK` of no entry of the window changes at most the duplicate count of the sender. -/
theorem execTcpAck_of_outside {s : State} {f : Frame} {a : Nat} (hread : readAcknum s.straps f = .ok a)
    (hout : s.snd.count ≤ seqDist s.straps.seqLen a s.snd.base) :
    ∃ d acts dup, execTcpAck f s = done .sender d acts (s.withSnd { s.snd with dup := dup }) := by
  by_cases hprev : seqDist s.straps.seqLen a s.snd.base = s.straps.seqLen - 1
  · rw [execTcpAck_of_previous hread hout hprev]
    rcases countDuplicate_cases s with ⟨-, hd⟩ | ⟨-, -, hd⟩ | ⟨e, -, -, hd⟩ <;> exact ⟨_, _, _, hd⟩
  · exact ⟨_, _, s.snd.dup, execTcpAck_of_stale hread hout hprev⟩

/-- `TCP.ACK`: new progress slides the window up to the acknowledged message. -/
theorem ClosedInv.tcpAck_slides (hv : c.variant = Variant.tcp.code) (hfits : c.FitsWire) (hx : Arrives c y x)
    (ha : exec (.tcpAck (mkAck c (ackNum c.seqLen x))) y.a = .next a') : AckSlides .tcp y a' x := by
  have hread := h.readAcknum_eq hfits x
  have hinv := exec_keeps_inv (.ofAck (h.variantA hv) _) h.invA ha
  rcases lt_or_ge y.acked x with hnew | hstale
  · have hxle := h.ack_le hx
    have hall := h.acked_add_count
    have hidx := h.ack_offset hx hnew
    have hn : x - 1 - y.acked + 1 = x - y.acked := by omega
    have hstep := (execTcpAck_of_inside hread (by omega)).trans (done_stop_restart ..)
    rw [hidx, hn] at hstep
    obtain rfl := Host.Outcome.next.inj (hstep.symm.trans ha)
    exact ⟨_, h.pop_slides hx (hv ▸ by decide) hnew.le hinv rfl rfl rfl, fun hlt _ => Nat.sub_pos_of_lt hlt⟩
  · obtain ⟨d, acts, dup, hstep⟩ := execTcpAck_of_outside hread (h.ack_offset_stale hx hstale).le
    obtain rfl := Host.Outcome.next.inj ((hstep.trans (done_eq ..)).symm.trans ha)
    exact ⟨0, h.slides_zero rfl hinv rfl rfl, fun hlt => absurd hlt hstale.not_gt⟩

/-- SR: after the mark of an entry that B has, everything marked B has. -/
theorem ClosedInv.received_of_marked {k i : Nat} {e : Entry} (hk : y.Received (y.acked + k))
    (he : (swSetAcked k y.a.snd).win[i]? = some e) (hacked : e.acked = true) : y.Received (y.acked + i) := by
  obtain ⟨e₀, he₀, -, hmark⟩ := swSetAcked_win_getElem? he
  by_cases hki : k = i
  · exact hki ▸ hk
  · exact h.marks i e₀ he₀ (by simpa [hacked, hki] using hmark.symm)

/-- SR: the mark and the slide over the acknowledged prefix. -/
theorem ClosedInv.mark_slides {k : Nat} (hk : y.Received (y.acked + k)) (hinv : a'.Inv) (hstraps : a'.straps = y.a.straps)
    (hsnd : a'.snd = swSlideAcked y.a.straps.seqLen (swSetAcked k y.a.snd)) :
    Slides y a' (ackedPrefix (swSetAcked k y.a.snd).win).length where
  straps := hstraps
  inv := hinv
  window := by rw [hsnd, swSlideAcked_win, List.map_drop, map_pkt_swSetAcked]
  base := by rw [hsnd, swSlideAcked_eq_popFront (h.invA.sender.shape.setAcked k).base_lt]; rfl
  count := (length_ackedPrefix_le _).trans (swSetAcked_count k y.a.snd).le
  delivered := by
    by_contra hgt
    have hlen := length_ackedPrefix_le (swSetAcked k y.a.snd).win
    have hle := h.acked_le
    have hlt : y.delivered.length - y.acked < (ackedPrefix (swSetAcked k y.a.snd).win).length := by omega
    have hmark := holds_of_lt_takeWhile hlt (List.getElem?_eq_getElem (hlt.trans_le hlen))
    have hreceived := h.received_of_marked hk (List.getElem?_eq_getElem (hlt.trans_le hlen)) hmark
    rw [Nat.add_sub_cancel' hle] at hreceived
    exact h.not_received hreceived
  marks := by
    intro i e he hacked
    rw [hsnd, swSlideAcked_win, List.getElem?_drop] at he
    rw [Nat.add_assoc]
    exact h.received_of_marked hk he hacked

/-- `SR.ACK`: the acknowledged entry is marked, and the window slides over the marked prefix. -/
theorem ClosedInv.srAck_slides (hv : c.variant = Variant.sr.code) (hfits : c.FitsWire) (hx : Arrives c y x)
    (ha : exec (.srAck (mkAck c (ackNum c.seqLen x))) y.a = .next a') : AckSlides .sr y a' x := by
  have hread := h.readAcknum_eq hfits x
  have hinv := exec_keeps_inv (.ofAck (h.variantA hv) _) h.invA ha
  rcases lt_or_ge y.acked x with hnew | hstale
  · have hxle := h.ack_le hx
    have hall := h.acked_add_count
    have hidx := h.ack_offset hx hnew
    obtain ⟨e, he⟩ : ∃ e, y.a.snd.win[x - 1 - y.acked]? = some e :=
      ⟨_, List.getElem?_eq_getElem (show x - 1 - y.acked < y.a.snd.count by omega)⟩
    have hfront (hx1 : x = y.acked + 1) : x - 1 - y.acked = 0 := by omega
    cases hacked : e.acked with
    | true =>
      obtain rfl := Host.Outcome.next.inj ((execSrAck_of_acked hread (hidx ▸ he) hacked).symm.trans ha)
      refine ⟨0, h.slides_zero rfl hinv rfl rfl, fun _ hx1 => ?_⟩
      rw [hfront (hx1 rfl), ← List.head?_eq_getElem?] at he
      exact absurd (h.invA.sender.marks.2 e he) (by simp [hacked])
    | false =>
      have hreceived : y.Received (y.acked + (x - 1 - y.acked)) := hx.received _ (by omega)
      obtain rfl := Host.Outcome.next.inj ((execSrAck_of_unacked hread (hidx ▸ he) hacked).symm.trans ha)
      refine ⟨_, h.mark_slides hreceived hinv rfl (by rw [hidx]), fun _ hx1 => ?_⟩
      by_contra hzero
      have hmarked : (swSetAcked (x - 1 - y.acked) y.a.snd).win[(ackedPrefix
          (swSetAcked (x - 1 - y.acked) y.a.snd).win).length]? = some ⟨e.pkt, true⟩ := by
        rw [Nat.eq_zero_of_not_pos hzero, swSetAcked_win_of_entry he, hfront (hx1 rfl)]
        exact List.getElem?_set_self (show 0 < y.a.snd.count by omega)
      exact absurd (not_holds_of_takeWhile_length hmarked) (by simp)
  · have hout := (h.ack_offset_stale hx hstale).le
    obtain rfl := Host.Outcome.next.inj ((execSrAck_of_outside hread hout).symm.trans ha)
    exact ⟨0, h.slides_zero rfl hinv rfl rfl, fun hlt => absurd hlt hstale.not_gt⟩

theorem ClosedInv.ack_slides (hv : c.variant = v.code) (hfits : c.FitsWire) (hx : Arrives c y x)
    (ha : exec (.ofAck (mkAck c (ackNum c.seqLen x)) v) y.a = .next a') : AckSlides v y a' x := by
  cases v with
  | gbn => exact h.gbnAck_slides hv hfits hx ha
  | sr => exact h.srAck_slides hv hfits hx ha
  | tcp => exact h.tcpAck_slides hv hfits hx ha

end

end Sys2Proof.Machine
end

section
/-! # B's events in the closed system (`70_reset_and_hazards.md` R300) -/

namespace Sys2Proof.Machine

theorem ackFrames_map_deliver (e : Option Engine) (d : Option Disposition) (fs : List Frame) :
    Report.ackFrames ⟨e, fs.map fun g => .deliver g.payload, d⟩ = [] := by
  simp [Report.ackFrames]

/-! ## B delivers and buffers -/

/-- B moves to `b'` and delivers the frames `fs`, the next in order; what is buffered then are later frames, and nothing buffered
is lost. -/
structure Absorbs (y : ClosedSystem) (b' : State) (fs : List Frame) : Prop where
  straps : b'.straps = y.b.straps
  inv : b'.Inv
  out : b'.out.delivered = fs.map (·.payload)
  frames : ∀ i f, fs[i]? = some f → y.frames[y.delivered.length + i]? = some f
  base : b'.rcv.base = seqAdd y.b.straps.seqLen y.b.rcv.base fs.length
  slots : ∀ i f, rwGet i b'.rcv = some f → y.frames[y.delivered.length + fs.length + i]? = some f
  keeps : ∀ i, y.Received i → Has (y.delivered.length + fs.length) b'.rcv i

section

variable {c : Straps} {T : Word32} {y : ClosedSystem} {b' : State} {fs : List Frame} (h : ClosedInv c T y)
include h

/-- What B delivers are the next messages. -/
theorem ClosedInv.delivered_append (hb : Absorbs y b' fs) :
    y.delivered ++ fs.map (·.payload) = y.messages.take (y.delivered.length + fs.length) := by
  have hprefix : fs.map (·.payload) <+: y.messages.drop y.delivered.length := by
    refine List.prefix_iff_getElem?.2 fun i hi => ?_
    rw [List.length_map] at hi
    obtain ⟨m, hm, hf⟩ := h.frame_eq (hb.frames i _ (List.getElem?_eq_getElem hi))
    rw [List.getElem?_drop, hm, List.getElem_map, hf, mkData_payload]
  have htake := List.prefix_iff_eq_take.1 hprefix
  rw [List.length_map] at htake
  rw [List.take_add, ← h.delivered, ← htake]

theorem ClosedInv.absorb (hb : Absorbs y b' fs) {new : List (Int × Frame)}
    (hnew : ∀ p ∈ new, ∃ x : Nat, p = ((x : Int) - 1, mkAck c (ackNum c.seqLen x)) ∧
      ∀ i, x = i + 1 → Has (y.delivered.length + fs.length) b'.rcv i) :
    ClosedInv c T { y with b := b', delivered := y.delivered ++ fs.map (·.payload), acks := y.acks ++ new } := by
  have hlen : (y.delivered ++ fs.map (·.payload)).length = y.delivered.length + fs.length := by
    rw [List.length_append, List.length_map]
  have hreceived (i : Nat) (hi : Has (y.delivered.length + fs.length) b'.rcv i) :
      Has (y.delivered ++ fs.map (·.payload)).length b'.rcv i := hlen.symm ▸ hi
  exact {
    strapsA := h.strapsA
    strapsB := hb.straps.trans h.strapsB
    invA := h.invA
    invB := hb.inv
    lengths := h.lengths
    frames := h.frames
    window := h.window
    base := h.base
    marks := fun i e he hacked => hreceived _ (hb.keeps _ (h.marks i e he hacked))
    acked_le := hlen.symm ▸ Nat.le_add_right_of_le h.acked_le
    rbase := by rw [hb.base, h.rbase, h.strapsB, hlen]; exact seqAdd_mod ..
    slots := fun i f hf => hlen.symm ▸ hb.slots i f hf
    delivered := hlen.symm ▸ h.delivered_append hb
    acks := by
      intro p hp
      rcases List.mem_append.1 hp with hold | hp
      · obtain ⟨x, hpx, hx⟩ := h.acks p hold
        exact ⟨x, hpx, fun i hi => hreceived i (hb.keeps i (hx i hi))⟩
      · obtain ⟨x, hpx, hx⟩ := hnew p hp
        exact ⟨x, hpx, fun i hi => hreceived i (hx i hi)⟩ }

/-- An event that delivers nothing and leaves the base and the slots. -/
theorem ClosedInv.absorbs_nil (hstraps : b'.straps = y.b.straps) (hinv : b'.Inv) (hout : b'.out.delivered = [])
    (hbase : b'.rcv.base = y.b.rcv.base) (hslots : b'.rcv.slots = y.b.rcv.slots) : Absorbs y b' [] where
  straps := hstraps
  inv := hinv
  out := hout
  frames := nofun
  base := by rw [hbase, List.length_nil, seqAdd_zero h.invB.receiver.shape.base_lt]
  slots := fun i f hf => h.slots i f (by rwa [rwGet, hslots] at hf)
  keeps := fun i hi => by
    simpa only [ClosedSystem.Received, Has, rwGet, hslots, List.length_nil, Nat.add_zero] using hi

end

/-! ## What B answers -/

/-- How many messages the acknowledgments of a `DATA` event are for, when frame `j` arrived and `n` messages are delivered then:
`ackIndex` and one. -/
def answered (v : Variant) (j n : Nat) : Nat :=
  match v with
  | .sr => j + 1
  | .gbn | .tcp => n

theorem ackIndex_eq (v : Variant) (j n : Nat) : ackIndex v j n = (answered v j n : Int) - 1 := by
  cases v <;> simp [ackIndex, answered]

section

variable {c : Straps} {T : Word32} {y : ClosedSystem} {b' : State} {fs : List Frame} {v : Variant} {j : Nat} {f : Frame}

theorem Fits.ofData {s : State} (hv : s.straps.variant = v.code) (hf : valid s.straps f = true → f.wf s.straps.payloadSize) :
    Fits s (.ofData f v) := by
  cases v with
  | gbn | tcp => exact ⟨hv.symm, nofun, nofun⟩
  | sr => exact ⟨hv.symm, nofun, fun g hg => Instr.srData.inj hg ▸ hf⟩

variable (h : ClosedInv c T y)
include h

theorem ClosedInv.variantB (hv : c.variant = v.code) : y.b.straps.variant = v.code := h.strapsB ▸ hv

theorem ClosedInv.mkAck_b (a : Nat) : mkAck y.b.straps a = mkAck c a := h.strapsB ▸ rfl

theorem ClosedInv.seqLen_b : y.b.straps.seqLen = c.seqLen := h.strapsB ▸ rfl

theorem ClosedInv.windowLen_b : y.b.straps.windowLen = c.windowLen := h.strapsB ▸ rfl

/-- The ACK cached by an in-order receiver is for everything delivered (R51). -/
theorem ClosedInv.lastAck_eq (hv : c.variant ≠ 1#2) (hb : Absorbs y b' fs) :
    b'.rcv.lastAck = mkAck c (ackNum c.seqLen (y.delivered.length + fs.length)) := by
  have hstraps := hb.straps.trans h.strapsB
  rw [(hb.inv.receiver.cumulative (hstraps ▸ hv)).1, hb.base, h.rbase, h.strapsB, hstraps]
  show mkAck c (seqPrev c.seqLen (seqAdd c.seqLen _ _)) = _
  rw [seqAdd_mod, seqPrev_mod c.one_lt_seqLen]

/-- An in-order receiver answers every `DATA` event by its cached ACK. -/
theorem ClosedInv.ackFrames_inOrder (hv : c.variant = v.code) (hne : v ≠ .sr) (hx : exec (.ofData f v) y.b = .next b')
    (hb : Absorbs y b' fs) : b'.out.ackFrames = [mkAck c (ackNum c.seqLen (answered v j (y.delivered.length + fs.length)))] := by
  obtain ⟨-, -, -, -, -, hack, -⟩ := transmissionsAreBounded _ _ _ hx
  cases v with
  | sr => exact absurd rfl hne
  | gbn | tcp => rw [hack nofun rfl, h.lastAck_eq (hv ▸ by decide) hb]; rfl

/-! ## Corrupt data frames -/

theorem ClosedInv.corruptData_absorbs (hv : c.variant = v.code) (hf : valid c f = false)
    (hx : exec (.ofData f v) y.b = .next b') : Absorbs y b' [] ∧ (v = .sr → b'.out.ackFrames = []) := by
  have hfB : valid y.b.straps f = false := h.strapsB ▸ hf
  have hinv := exec_keeps_inv (.ofData (h.variantB hv) fun hvalid => absurd (hfB.symm.trans hvalid) (by decide)) h.invB hx
  have hread : readSeqnum y.b.straps f = .error .corrupt := by rw [readSeqnum, readField, hfB]; rfl
  cases v with
  | gbn | tcp =>
    obtain rfl := Host.Outcome.next.inj ((receiveInOrder_of_error hread).symm.trans hx)
    exact ⟨h.absorbs_nil rfl hinv rfl rfl rfl, nofun⟩
  | sr =>
    obtain rfl := Host.Outcome.next.inj ((execSrData_of_error hread).symm.trans hx)
    exact ⟨h.absorbs_nil rfl hinv rfl rfl rfl, fun _ => rfl⟩

/-! ## Data frames -/

/-- The hypotheses of frame `j` that arrives: A sent it, and it is young enough. -/
structure DataArrives (c : Straps) (y : ClosedSystem) (j : Nat) (f : Frame) : Prop where
  frame : y.frames[j]? = some f
  age : y.delivered.length ≤ j + c.windowLen

theorem ClosedInv.readSeqnum_eq (hfits : c.FitsWire) (hj : DataArrives c y j f) :
    readSeqnum y.b.straps f = .ok (j % c.seqLen) := by
  obtain ⟨m, -, rfl⟩ := h.frame_eq hj.frame
  rw [h.strapsB]
  exact readSeqnum_mkData hfits (Nat.mod_lt _ c.seqLen_pos) m

theorem ClosedInv.fits_data (hv : c.variant = v.code) (hj : DataArrives c y j f) : Fits y.b (.ofData f v) := by
  refine .ofData (h.variantB hv) fun _ => ?_
  obtain ⟨m, hm, rfl⟩ := h.frame_eq hj.frame
  rw [h.strapsB]
  exact h.lengths m (List.mem_of_getElem? hm)

/-- A frame that arrives is of the current window or of the one before. -/
theorem ClosedInv.data_lt (hj : DataArrives c y j f) : j < y.delivered.length + c.windowLen := by
  have := h.lt_of_frame hj.frame
  have := h.messages_le
  have := h.acked_le
  omega

/-- The in-order receivers deliver the frame they wait for and no other. -/
theorem ClosedInv.inOrder_absorbs (hv : c.variant ≠ 1#2) (hfits : c.FitsWire) (hj : DataArrives c y j f) (hinv : b'.Inv)
    (hx : receiveInOrder f y.b = .next b') :
    ∃ fs, Absorbs y b' fs ∧ (j ≤ y.delivered.length → j < y.delivered.length + fs.length) := by
  have hread := h.readSeqnum_eq hfits hj
  have hlt := h.data_lt hj
  have hage := hj.age
  have hlen : c.seqLen = c.windowLen + c.windowLen := Nat.two_mul _
  by_cases hnext : j = y.delivered.length
  · subst hnext
    rw [← h.rbase] at hread
    obtain rfl := Host.Outcome.next.inj ((receiveInOrder_of_expected hread).symm.trans hx)
    have hblank (i : Nat) : rwGet i y.b.rcv = none := (h.invB.receiver.cumulative (h.strapsB ▸ hv)).2 i
    refine ⟨[f], ⟨rfl, hinv, rfl, fun i g hg => ?_, rfl, fun i g hg => absurd ((hblank i).symm.trans hg) nofun, ?_⟩,
      fun _ => Nat.lt_succ_self _⟩
    · obtain ⟨rfl, rfl⟩ : i = 0 ∧ f = g := by simpa [List.getElem?_singleton] using hg
      exact hj.frame
    · rintro i (hi | ⟨k, g, -, hg⟩)
      · exact .inl (Nat.lt_succ_of_lt hi)
      · exact absurd ((hblank k).symm.trans hg) nofun
  · have hne : j % c.seqLen ≠ y.b.rcv.base := by
      rw [h.rbase]
      exact fun heq => hnext (eq_of_mod_eq (lo := y.delivered.length - c.windowLen) heq (by omega) (by omega) (by omega) (by omega))
    obtain rfl := Host.Outcome.next.inj ((receiveInOrder_of_unexpected hread hne).symm.trans hx)
    exact ⟨[], h.absorbs_nil rfl hinv rfl rfl rfl, fun hle => lt_of_le_of_ne hle hnext⟩

/-- The SR receiver buffers a new frame and delivers the received prefix. -/
theorem ClosedInv.store_absorbs (hj : DataArrives c y j f) (hle : y.delivered.length ≤ j) (hinv : b'.Inv)
    (hfs : receivedPrefix (y.b.rcv.slots.set (j - y.delivered.length) (some f)) = fs.map some)
    (hstraps : b'.straps = y.b.straps) (hout : b'.out.delivered = fs.map (·.payload))
    (hbase : b'.rcv.base = seqAdd y.b.straps.seqLen y.b.rcv.base fs.length)
    (hslots : b'.rcv.slots =
      (y.b.rcv.slots.set (j - y.delivered.length) (some f)).drop fs.length ++ List.replicate fs.length none) :
    Absorbs y b' fs ∧ Has (y.delivered.length + fs.length) b'.rcv j := by
  have hlt := h.data_lt hj
  have hwidth : y.b.rcv.slots.length = c.windowLen := h.invB.receiver.shape.slots_length.trans h.windowLen_b
  have hget (k : Nat) : rwGet k b'.rcv = (y.b.rcv.slots.set (j - y.delivered.length) (some f))[fs.length + k]?.join := by
    rw [rwGet, hslots, join_getElem?_drop_append_blanks]
  have stored {k : Nat} {g : Frame} (hg : (y.b.rcv.slots.set (j - y.delivered.length) (some f))[k]?.join = some g) :
      y.frames[y.delivered.length + k]? = some g := by
    rcases join_getElem?_set hg with ⟨rfl, rfl⟩ | hold
    · rw [Nat.add_sub_cancel' hle]
      exact hj.frame
    · exact h.slots k g hold
  have kept {k : Nat} {g : Frame} (hg : (y.b.rcv.slots.set (j - y.delivered.length) (some f))[k]?.join = some g) :
      Has (y.delivered.length + fs.length) b'.rcv (y.delivered.length + k) := by
    rcases lt_or_ge k fs.length with hk | hk
    · exact .inl (Nat.add_lt_add_left hk _)
    · exact .inr ⟨k - fs.length, g, by omega, by rw [hget, Nat.add_sub_cancel' hk, hg]⟩
  refine ⟨⟨hstraps, hinv, hout, fun i g hg => ?_, hbase, fun i g hg => ?_, ?_⟩, ?_⟩
  · have hprefix : receivedPrefix (y.b.rcv.slots.set (j - y.delivered.length) (some f)) <+: _ := List.takeWhile_prefix _
    rw [hfs] at hprefix
    have hslot := getElem?_of_prefix (i := i) (x := some g) hprefix (by rw [List.getElem?_map, hg]; rfl)
    exact stored (by rw [hslot]; rfl)
  · rw [Nat.add_assoc]
    exact stored (hget i ▸ hg)
  · rintro i (hi | ⟨k, g, rfl, hg⟩)
    · exact .inl (Nat.lt_add_right _ hi)
    · by_cases hk : k = j - y.delivered.length
      · refine kept (g := f) ?_
        rw [hk, List.getElem?_set_self (by omega)]
        rfl
      · refine kept (g := g) ?_
        rw [List.getElem?_set_ne (Ne.symm hk)]
        exact hg
  · have hself := kept (k := j - y.delivered.length) (g := f) (by rw [List.getElem?_set_self (by omega)]; rfl)
    rwa [Nat.add_sub_cancel' hle] at hself

theorem ClosedInv.srData_absorbs (hv : c.variant = Variant.sr.code) (hfits : c.FitsWire) (hj : DataArrives c y j f)
    (hx : exec (.srData f) y.b = .next b') :
    ∃ fs, Absorbs y b' fs ∧ b'.out.ackFrames = [mkAck c (ackNum c.seqLen (j + 1))] ∧
      Has (y.delivered.length + fs.length) b'.rcv j := by
  have hread := h.readSeqnum_eq hfits hj
  have hinv := exec_keeps_inv (h.fits_data hv hj) h.invB hx
  have hlt := h.data_lt hj
  have hage := hj.age
  have hlen : c.seqLen = c.windowLen + c.windowLen := Nat.two_mul _
  have hnumber : mkAck y.b.straps (j % c.seqLen) = mkAck c (ackNum c.seqLen (j + 1)) := by
    rw [h.mkAck_b, ackNum_succ c.seqLen_pos]
  rcases lt_or_ge j y.delivered.length with hold | hle
  · have hout : y.b.straps.windowLen ≤ seqDist y.b.straps.seqLen (j % c.seqLen) y.b.rcv.base := by
      rw [h.windowLen_b, h.seqLen_b, h.rbase, seqDist_mod_of_lt hold (by omega)]
      omega
    obtain rfl := Host.Outcome.next.inj ((execSrData_of_outside hread hout).symm.trans hx)
    exact ⟨[], h.absorbs_nil rfl hinv rfl rfl rfl, congrArg ([·]) hnumber, .inl hold⟩
  · have hidx : seqDist y.b.straps.seqLen (j % c.seqLen) y.b.rcv.base = j - y.delivered.length := by
      rw [h.seqLen_b, h.rbase, seqDist_mod_of_le hle (by omega)]
    have hin : seqDist y.b.straps.seqLen (j % c.seqLen) y.b.rcv.base < y.b.straps.windowLen := by
      rw [hidx, h.windowLen_b]
      omega
    have hwidth : y.b.rcv.slots.length = y.b.straps.windowLen := h.invB.receiver.shape.slots_length
    obtain ⟨o, ho⟩ : ∃ o, y.b.rcv.slots[seqDist y.b.straps.seqLen (j % c.seqLen) y.b.rcv.base]? = some o :=
      ⟨_, List.getElem?_eq_getElem (by rwa [hwidth])⟩
    cases o with
    | some g =>
      obtain rfl := Host.Outcome.next.inj ((execSrData_of_received hread hin ho).symm.trans hx)
      refine ⟨[], h.absorbs_nil rfl hinv rfl rfl rfl, congrArg ([·]) hnumber, .inr ⟨j - y.delivered.length, g, ?_, ?_⟩⟩
      · exact (Nat.add_sub_cancel' hle).symm
      · show y.b.rcv.slots[_]?.join = some g
        rw [← hidx, ho]
        rfl
    | none =>
      obtain ⟨fs, hfs⟩ := exists_receivedPrefix_eq_map_some
        (y.b.rcv.slots.set (seqDist y.b.straps.seqLen (j % c.seqLen) y.b.rcv.base) (some f))
      have hstep := execSrData_of_blank hread hin ho
        (deliverLoop_store h.invB.receiver.shape (mkAck y.b.straps (j % c.seqLen)) hfs)
      obtain rfl := Host.Outcome.next.inj (hstep.symm.trans hx)
      rw [hidx] at hfs
      obtain ⟨hb, hhas⟩ := h.store_absorbs hj hle hinv hfs rfl (delivered_map_deliver (some .receiver) (some .ok) fs) rfl
        (by rw [hidx])
      refine ⟨fs, hb, ?_, hhas⟩
      rw [ackFrames_txAck, ackFrames_map_deliver, hnumber]

/-- A data frame that arrives: what is answered, and that B has the frame then, if it waited for it or for a later one. -/
theorem ClosedInv.data_absorbs (hv : c.variant = v.code) (hfits : c.FitsWire) (hj : DataArrives c y j f)
    (hx : exec (.ofData f v) y.b = .next b') :
    ∃ fs, Absorbs y b' fs ∧
      b'.out.ackFrames = [mkAck c (ackNum c.seqLen (answered v j (y.delivered.length + fs.length)))] ∧
      (j ≤ y.delivered.length → j < y.delivered.length + fs.length) ∧
      ∀ i, answered v j (y.delivered.length + fs.length) = i + 1 → Has (y.delivered.length + fs.length) b'.rcv i := by
  have hinv := exec_keeps_inv (h.fits_data hv hj) h.invB hx
  cases v with
  | gbn | tcp =>
    obtain ⟨fs, hb, hnext⟩ := h.inOrder_absorbs (hv ▸ by decide) hfits hj hinv hx
    exact ⟨fs, hb, h.ackFrames_inOrder hv nofun hx hb, hnext, fun _ hi => .inl (Nat.le_of_eq hi.symm)⟩
  | sr =>
    obtain ⟨fs, hb, hack, hhas⟩ := h.srData_absorbs hv hfits hj hx
    refine ⟨fs, hb, hack, fun hle => ?_, fun i hi => Nat.succ.inj hi ▸ hhas⟩
    rcases hhas with hlt | ⟨k, g, hk, hg⟩
    · exact hlt
    · obtain rfl : k = 0 := by omega
      exact absurd (hinv.receiver.slots.1.symm.trans hg) nofun

end

/-! ## Every move -/

theorem ClosedInv.arrives {c : Straps} {T : Word32} {y : ClosedSystem} (h : ClosedInv c T y) {j : Int} {f : Frame}
    (hf : (j, f) ∈ y.acks) (age : (y.messages.length : Int) - c.seqLen < j) :
    ∃ x : Nat, f = mkAck c (ackNum c.seqLen x) ∧ Arrives c y x := by
  obtain ⟨x, hp, hx⟩ := h.acks _ hf
  obtain ⟨rfl, rfl⟩ := Prod.mk.inj hp
  exact ⟨x, rfl, hx, by omega⟩

/-- Every move keeps the invariant, and no message comes back into A's window. -/
theorem ClosedStep.keeps_inv {c : Straps} {T : Word32} {v : Variant} {y y' : ClosedSystem} {x : ClosedMove} (hfits : c.FitsWire)
    (hv : c.variant = v.code) (h : ClosedInv c T y) (hs : ClosedStep c v y x y') : ClosedInv c T y' ∧ y.acked ≤ y'.acked := by
  have slide {a' : State} {n : Nat} (hn : Slides y a' n) :
      ClosedInv c T { y with a := a' } ∧ y.acked ≤ ({ y with a := a' } : ClosedSystem).acked :=
    ⟨h.slide hn, h.acked_slide hn ▸ Nat.le_add_right ..⟩
  cases hs with
  | send hm hx => exact h.send hv hm hx rfl
  | expiry hx => exact slide (h.expiry_slides hv hx)
  | ack hf age hx =>
    obtain ⟨x, rfl, harrives⟩ := h.arrives hf age
    obtain ⟨n, hn, -⟩ := h.ack_slides hv hfits harrives hx
    exact slide hn
  | corruptAck hf hx => exact slide (h.corruptAck_slides hv hf hx)
  | @data j f b' hf age hx =>
    obtain ⟨fs, hb, hack, -, hhas⟩ := h.data_absorbs hv hfits ⟨hf, age⟩ hx
    refine ⟨?_, le_rfl⟩
    rw [hb.out]
    refine h.absorb hb fun p hp => ?_
    rw [hack, List.length_map, ackIndex_eq, List.map_singleton, List.mem_singleton] at hp
    exact ⟨_, hp, hhas⟩
  | @corruptData f b' hf hx =>
    obtain ⟨hb, hsilent⟩ := h.corruptData_absorbs hv hf hx
    refine ⟨?_, le_rfl⟩
    have habsorb := h.absorb hb (new := b'.out.ackFrames.map fun g => (ackIndex v 0 y.delivered.length, g)) fun p hp => ?_
    · rwa [List.map_nil, List.append_nil] at habsorb
    · by_cases hsr : v = .sr
      · rw [hsilent hsr] at hp
        cases hp
      · rw [h.ackFrames_inOrder (j := 0) hv hsr hx hb, ackIndex_eq, List.map_singleton, List.mem_singleton] at hp
        refine ⟨_, hp, fun i hi => .inl ?_⟩
        cases v with
        | sr => exact absurd rfl hsr
        | gbn | tcp => exact Nat.le_of_eq hi.symm
  | wait => exact ⟨h, le_rfl⟩

theorem Closed.inv {c : Straps} {T : Word32} {v : Variant} {y : ClosedSystem} (hfits : c.FitsWire) (hv : c.variant = v.code)
    (h : Closed c T v y) : ClosedInv c T y := by
  induction h with
  | start => exact .start c T
  | step _ hs ih => exact (hs.keeps_inv hfits hv ih).1

/-- Settles O57: the deliveries are the front of the messages by the invariant of the closed system. -/
theorem closedSystemDeliversTheMessagesInOrder : Obligations.ClosedSystemDeliversTheMessagesInOrder :=
  fun _ _ _ _ hfits hv h => (h.inv hfits hv).delivered

end Sys2Proof.Machine
end

section
/-! # Fair runs deliver everything and become quiescent (`70_reset_and_hazards.md` R302)

If the application sends only so many messages, then from some point on nothing moves: no message is sent, delivered or leaves A's
window. If A's window were not empty then, its front packet would be retransmitted again and again, would arrive, and would
be answered by an acknowledgment that arrives and moves the window. -/

namespace Sys2Proof.Machine

/-! ## What keeps the system going -/

/-- In every variant the timer of the base runs while the window is not empty (R49, R50; in SR the front is not acknowledged). -/
theorem running_base {s : State} (h : SenderInv s) (hwin : s.snd.win ≠ []) : running s.snd.base s.ta = true := by
  rw [h.timers.2]
  by_cases hv : s.straps.variant = 1#2
  · obtain ⟨e, he⟩ := Option.ne_none_iff_exists'.1 (mt List.head?_eq_none_iff.1 hwin)
    exact (shouldRun_sr hv _).2 ⟨0, e, by rw [← List.head?_eq_getElem?, he], h.marks.2 e he, (seqAdd_zero h.shape.base_lt).symm⟩
  · exact (shouldRun_fifo hv _).2 ⟨hwin, rfl⟩

/-- With an empty window no timer runs. -/
theorem quiescent_of_empty {s : State} (h : SenderInv s) (hwin : s.snd.win = []) : s.Quiescent := by
  refine ⟨hwin, fun k => Bool.eq_false_iff.2 fun hrun => ?_⟩
  have hshould := (h.timers.2 k).1 hrun
  by_cases hv : s.straps.variant = 1#2
  · obtain ⟨i, e, he, -⟩ := (shouldRun_sr hv k).1 hshould
    simp [hwin] at he
  · exact ((shouldRun_fifo hv k).1 hshould).1 hwin

section

variable {c : Straps} {T : Word32} {v : Variant} {y y' : ClosedSystem} {f : Frame} (h : ClosedInv c T y) (hv : c.variant = v.code)
include h hv

/-- The expiry of the base's timer retransmits the front packet. -/
theorem ClosedInv.expiry_retransmits {w : Word32} (hs : ClosedStep c v y (.expiry w) y') (hw : w.toNat = y.a.snd.base)
    (hf : y.frames[y.acked]? = some f) : f ∈ y'.a.out.dataFrames := by
  cases hs with
  | @expiry _ a' hx =>
    have hhead : (y.a.snd.win.map (·.pkt)).head? = some f := by rw [h.window, List.head?_drop, hf]
    rw [List.head?_map, Option.map_eq_some_iff] at hhead
    obtain ⟨e, he, rfl⟩ := hhead
    have hwin : y.a.snd.win ≠ [] := fun hnil => by simp [hnil] at he
    have hrun : running w.toNat y.a.ta = true := hw ▸ running_base h.invA.sender hwin
    obtain ⟨acts, hretransmits, hexec⟩ := exec_timeout_of_running h.invA.sender (h.variantA hv) hrun
    rw [expire_of_running h.invA.sender (h.variantA hv) hrun] at hx
    obtain rfl := Host.Outcome.next.inj ((hexec y.a.ta).symm.trans hx)
    exact hretransmits hw e he _ _

variable (hfits : c.FitsWire)
include hfits

/-- The front packet of A's window, when it arrives, is delivered if B waits for it, and answered. -/
theorem ClosedInv.data_answers {j : Nat} (hs : ClosedStep c v y (.data j f) y') (hf : y.frames[y.acked]? = some f) :
    y.acked < y'.delivered.length ∧
      mkAck c (ackNum c.seqLen (answered v y.acked y'.delivered.length)) ∈ y'.b.out.ackFrames := by
  cases hs with
  | @data _ _ b' hj age hx =>
    obtain ⟨fs, hb, hack, hnext, -⟩ := h.data_absorbs hv hfits ⟨hj, age⟩ hx
    have hlt := h.data_lt ⟨hj, age⟩
    have hacked := h.acked_le
    have hmessages := h.messages_le
    have hdelivered := h.delivered_le
    have hlen : c.seqLen = c.windowLen + c.windowLen := Nat.two_mul _
    obtain ⟨m, -, hfj⟩ := h.frame_eq hj
    obtain ⟨m', -, hfa⟩ := h.frame_eq hf
    have hnumber : j % c.seqLen = y.acked % c.seqLen :=
      ofNat32_inj hfits (Nat.mod_lt _ c.seqLen_pos) (Nat.mod_lt _ c.seqLen_pos) (congrArg Frame.seqnum (hfj.symm.trans hfa))
    obtain rfl : j = y.acked :=
      eq_of_mod_eq (lo := y.delivered.length - c.windowLen) hnumber (by omega) (by omega) (by omega) (by omega)
    have hcount : (y.delivered ++ b'.out.delivered).length = y.delivered.length + fs.length := by
      rw [hb.out, List.length_append, List.length_map]
    exact ⟨hcount.symm ▸ hnext hacked, by rw [hcount, hack]; exact List.mem_singleton_self _⟩

/-- An acknowledgment past the front of A's window (in SR, of the front) moves it. -/
theorem ClosedInv.ack_advances {j : Int} {x : Nat} (hs : ClosedStep c v y (.ack j (mkAck c (ackNum c.seqLen x))) y')
    (hlt : y.acked < x) (hle : x ≤ y.messages.length) (hsr : v = .sr → x = y.acked + 1) : y.acked < y'.acked := by
  cases hs with
  | ack hf age hx =>
    obtain ⟨x', hframe, harrives⟩ := h.arrives hf age
    have hage := harrives.age
    have hx'le := h.ack_le harrives
    have hmessages := h.messages_le
    have hlen : c.seqLen = c.windowLen + c.windowLen := Nat.two_mul _
    have hnumber : ackNum c.seqLen x = ackNum c.seqLen x' :=
      ofNat32_inj hfits (ackNum_lt c.seqLen_pos x) (ackNum_lt c.seqLen_pos x') (congrArg Frame.acknum hframe)
    have hshift : x + (c.seqLen - 1) = x' + (c.seqLen - 1) :=
      eq_of_mod_eq (lo := y.messages.length + 1) hnumber (by omega) (by omega) (by omega) (by omega)
    obtain rfl : x = x' := Nat.add_right_cancel hshift
    obtain ⟨n, hn, hpos⟩ := h.ack_slides hv hfits harrives hx
    rw [h.acked_slide hn]
    exact Nat.lt_add_of_pos_right (hpos hlt hsr)

end

/-! ## Runs -/

/-- A bounded sequence of numbers that never falls is constant from some point on. -/
theorem exists_forall_ge_eq {g : Nat → Nat} (hmono : Monotone g) {B : Nat} (hB : ∀ n, g n ≤ B) :
    ∃ n₀, ∀ m, n₀ ≤ m → g m = g n₀ := by
  refine ⟨Function.argmin fun n => B - g n, fun m hm => ?_⟩
  have hmin := Function.argmin_le (fun n => B - g n) m
  have hle := hmono hm
  have hbound := hB m
  omega

theorem ClosedStep.messages_eq {c : Straps} {v : Variant} {y y' : ClosedSystem} {x : ClosedMove} (h : ClosedStep c v y x y')
    (hx : ∀ m, x ≠ .send m) : y'.messages = y.messages := by
  cases h with
  | send => exact absurd rfl (hx _)
  | expiry | ack | corruptAck | data | corruptData | wait => rfl

section

variable {c : Straps} {T : Word32} {v : Variant} (r : ClosedRun c T v)

theorem ClosedRun.messages_prefix {m n : Nat} (h : m ≤ n) : (r.sys m).messages <+: (r.sys n).messages :=
  Nat.le_induction List.prefix_rfl (fun n _ ih => ih.trans (r.steps n).grows.1) n h

theorem ClosedRun.monotone_messages : Monotone fun n => (r.sys n).messages.length :=
  fun _ _ h => (r.messages_prefix h).length_le

theorem ClosedRun.monotone_delivered : Monotone fun n => (r.sys n).delivered.length :=
  monotone_nat_of_le_succ fun n => (r.steps n).grows.2.length_le

variable (hfits : c.FitsWire) (hv : c.variant = v.code)
include hfits hv

theorem ClosedRun.inv (n : Nat) : ClosedInv c T (r.sys n) := (r.closed n).inv hfits hv

theorem ClosedRun.monotone_acked : Monotone fun n => (r.sys n).acked :=
  monotone_nat_of_le_succ fun n => ((r.steps n).keeps_inv hfits hv (r.inv hfits hv n)).2

variable {r}

/-- From `n₀` on no message is sent, delivered or leaves A's window. -/
structure ClosedRun.Settled (r : ClosedRun c T v) (n₀ : Nat) : Prop where
  messages : ∀ m, n₀ ≤ m → (r.sys m).messages = (r.sys n₀).messages
  delivered : ∀ m, n₀ ≤ m → (r.sys m).delivered.length = (r.sys n₀).delivered.length
  acked : ∀ m, n₀ ≤ m → (r.sys m).acked = (r.sys n₀).acked

/-- If only so many messages are sent, the run settles. -/
theorem ClosedRun.exists_settled {B : Nat} (hB : ∀ m, (r.sys m).messages.length ≤ B) : ∃ n₀, r.Settled n₀ := by
  have hdelivered (m : Nat) : (r.sys m).delivered.length ≤ B := (r.inv hfits hv m).delivered_le.trans (hB m)
  have hacked (m : Nat) : (r.sys m).acked ≤ B := (r.inv hfits hv m).acked_le.trans (hdelivered m)
  obtain ⟨n₁, h₁⟩ := exists_forall_ge_eq r.monotone_messages hB
  obtain ⟨n₂, h₂⟩ := exists_forall_ge_eq r.monotone_delivered hdelivered
  obtain ⟨n₃, h₃⟩ := exists_forall_ge_eq (r.monotone_acked hfits hv) hacked
  have hle₁ : n₁ ≤ max n₁ (max n₂ n₃) := le_max_left _ _
  have hle₂ : n₂ ≤ max n₁ (max n₂ n₃) := (le_max_left _ _).trans (le_max_right _ _)
  have hle₃ : n₃ ≤ max n₁ (max n₂ n₃) := (le_max_right _ _).trans (le_max_right _ _)
  refine ⟨_, fun m hm => ?_, fun m hm => (h₂ m (hle₂.trans hm)).trans (h₂ _ hle₂).symm,
    fun m hm => (h₃ m (hle₃.trans hm)).trans (h₃ _ hle₃).symm⟩
  exact ((r.messages_prefix hm).eq_of_length ((h₁ _ hle₁).trans (h₁ m (hle₁.trans hm)).symm)).symm

section

variable {n₀ : Nat} (hset : r.Settled n₀)
include hset

/-- The packets do not change either, and the front packet of the window stays the same. -/
theorem ClosedRun.Settled.frame {f : Frame} (hf : (r.sys n₀).frames[(r.sys n₀).acked]? = some f) {m : Nat} (hm : n₀ ≤ m) :
    (r.sys m).frames[(r.sys m).acked]? = some f := by
  rw [hset.acked m hm, (r.inv hfits hv m).frames, hset.messages m hm, ← (r.inv hfits hv n₀).frames, hf]

variable (hfair : r.Fair)
include hfair

/-- In a settled run with messages in A's window, the front packet is transmitted again and again. -/
theorem ClosedRun.Settled.retransmits {f : Frame} (hf : (r.sys n₀).frames[(r.sys n₀).acked]? = some f) :
    InfinitelyOften fun m => (r.move m).atSender = true ∧ f ∈ (r.sys (m + 1)).a.out.dataFrames := by
  have hbase {m : Nat} (hm : n₀ ≤ m) : (r.sys m).a.snd.base = (r.sys n₀).acked % c.seqLen := by
    rw [(r.inv hfits hv m).base, hset.acked m hm]
  have hrun (m : Nat) (hm : n₀ ≤ m) : running ((r.sys n₀).acked % c.seqLen) (r.sys m).a.ta = true := by
    have hinv := r.inv hfits hv m
    have hlt := hinv.lt_of_frame (hset.frame hfits hv hf hm)
    have hall := hinv.acked_add_count
    rw [← hbase hm]
    refine running_base hinv.invA.sender fun hnil => ?_
    rw [Sender.count, hnil, List.length_nil] at hall
    omega
  refine ((hfair.timers _ ⟨n₀, hrun⟩).and_eventually (q := (n₀ ≤ ·)) fun _ hm => hm).mono ?_
  rintro m ⟨⟨w, hmove, hw⟩, hm⟩
  have hstep := r.steps m
  rw [hmove] at hstep ⊢
  exact ⟨rfl, (r.inv hfits hv m).expiry_retransmits hv hstep (hw.trans (hbase hm).symm) (hset.frame hfits hv hf hm)⟩

/-- In a settled run with messages in A's window, B has delivered the front packet, and acknowledges it again and again. -/
theorem ClosedRun.Settled.answers {f : Frame} (hf : (r.sys n₀).frames[(r.sys n₀).acked]? = some f) :
    (r.sys n₀).acked < (r.sys n₀).delivered.length ∧
      InfinitelyOften fun m => (r.move m).atReceiver = true ∧
        mkAck c (ackNum c.seqLen (answered v (r.sys n₀).acked (r.sys n₀).delivered.length)) ∈ (r.sys (m + 1)).b.out.ackFrames := by
  have answer {m j : Nat} (hmove : r.move m = .data j f) (hm : n₀ ≤ m) :
      (r.sys n₀).acked < (r.sys n₀).delivered.length ∧
        mkAck c (ackNum c.seqLen (answered v (r.sys n₀).acked (r.sys n₀).delivered.length)) ∈
          (r.sys (m + 1)).b.out.ackFrames := by
    have hstep := r.steps m
    rw [hmove] at hstep
    have hanswer := (r.inv hfits hv m).data_answers hv hfits hstep (hset.frame hfits hv hf hm)
    rwa [hset.acked m hm, hset.delivered (m + 1) (Nat.le_succ_of_le hm)] at hanswer
  have harrives := hfair.data f (hset.retransmits hfits hv hfair hf)
  obtain ⟨m, hm, j, hmove⟩ := harrives n₀
  refine ⟨(answer hmove hm).1, (harrives.and_eventually (q := (n₀ ≤ ·)) fun _ hm => hm).mono ?_⟩
  rintro m ⟨⟨j, hmove⟩, hm⟩
  exact ⟨hmove ▸ rfl, (answer hmove hm).2⟩

/-- In a settled fair run A's window is empty: an acknowledgment of the front packet would arrive and move it. -/
theorem ClosedRun.Settled.acked_eq : (r.sys n₀).acked = (r.sys n₀).messages.length := by
  have hinv := r.inv hfits hv n₀
  by_contra hne
  have hlt : (r.sys n₀).acked < (r.sys n₀).frames.length := by
    have := hinv.frames_length
    have := hinv.acked_le
    have := hinv.delivered_le
    omega
  obtain ⟨hdelivered, hanswers⟩ := hset.answers hfits hv hfair (List.getElem?_eq_getElem hlt)
  obtain ⟨m, hm, j, hmove⟩ := hfair.acks _ hanswers n₀
  have hstep := r.steps m
  rw [hmove] at hstep
  have hle : answered v (r.sys n₀).acked (r.sys n₀).delivered.length ≤ (r.sys n₀).messages.length ∧
      (r.sys n₀).acked < answered v (r.sys n₀).acked (r.sys n₀).delivered.length ∧
      (v = .sr → answered v (r.sys n₀).acked (r.sys n₀).delivered.length = (r.sys n₀).acked + 1) := by
    have := hinv.delivered_le
    cases v with
    | gbn | tcp => exact ⟨this, hdelivered, nofun⟩
    | sr => exact ⟨by simp only [answered]; omega, Nat.lt_succ_self _, fun _ => rfl⟩
  obtain ⟨hsent, hnew, hsr⟩ := hle
  have hadvance := (r.inv hfits hv m).ack_advances hv hfits hstep (by rwa [hset.acked m hm]) (by rwa [hset.messages m hm])
    (by rwa [hset.acked m hm])
  rw [hset.acked m hm, hset.acked (m + 1) (Nat.le_succ_of_le hm)] at hadvance
  exact lt_irrefl _ hadvance

end

/-- If only so many messages are sent in a fair run, then from some point on all of them have left A's window. -/
theorem ClosedRun.Fair.eventually_acked (hfair : r.Fair) {B : Nat} (hB : ∀ m, (r.sys m).messages.length ≤ B) :
    ∃ n₀, ∀ m, n₀ ≤ m → (r.sys m).acked = (r.sys m).messages.length := by
  obtain ⟨n₀, hset⟩ := r.exists_settled hfits hv hB
  exact ⟨n₀, fun m hm => by rw [hset.acked m hm, hset.messages m hm, hset.acked_eq hfits hv hfair]⟩

/-- While message `i` is not delivered, A's window bounds the messages sent; so it is delivered. -/
theorem ClosedRun.Fair.eventually_delivered (hfair : r.Fair) {n i : Nat} (hi : i < (r.sys n).messages.length) :
    ∃ m, n ≤ m ∧ i < (r.sys m).delivered.length := by
  by_contra! hnot
  have hdelivered (m : Nat) : (r.sys m).delivered.length ≤ i :=
    (r.monotone_delivered (le_max_left m n)).trans (hnot _ (le_max_right m n))
  have hB (m : Nat) : (r.sys m).messages.length ≤ i + c.windowLen := by
    have hinv := r.inv hfits hv m
    exact hinv.messages_le.trans (Nat.add_le_add_right (hinv.acked_le.trans (hdelivered m)) _)
  obtain ⟨n₀, hacked⟩ := hfair.eventually_acked hfits hv hB
  have hinv := r.inv hfits hv (max n₀ n)
  have hmessages := r.monotone_messages (le_max_right n₀ n)
  have heq := hacked _ (le_max_left n₀ n)
  have hle := hinv.acked_le.trans (hdelivered _)
  simp only at hmessages
  omega

/-- What is delivered at position `i` is the message sent there. -/
theorem ClosedRun.delivered_getElem? {n m i : Nat} (hi : i < (r.sys n).messages.length) (hm : n ≤ m)
    (hd : i < (r.sys m).delivered.length) : (r.sys m).delivered[i]? = (r.sys n).messages[i]? := by
  rw [(r.inv hfits hv m).delivered, List.getElem?_take_of_lt hd, List.getElem?_eq_getElem hi]
  exact List.prefix_iff_getElem?.1 (r.messages_prefix hm) i hi

end

/-- Settles O58: messages are delivered by `eventually_delivered`, and where the application stops all leave A's window, which
leaves no timer. -/
theorem fairRunsDeliverEverythingAndBecomeQuiescent : Obligations.FairRunsDeliverEverythingAndBecomeQuiescent := by
  intro c T v r hfits hv hfair
  refine ⟨fun n i hi => ?delivers, fun ⟨n, hstops⟩ => ?quiescent⟩
  case delivers =>
    obtain ⟨m, hm, hd⟩ := hfair.eventually_delivered hfits hv hi
    exact ⟨m, hm, r.delivered_getElem? hfits hv hi hm hd⟩
  case quiescent =>
    have hconst (m : Nat) (hm : n ≤ m) : (r.sys m).messages = (r.sys n).messages :=
      Nat.le_induction rfl (fun m hm ih => ((r.steps m).messages_eq (hstops m hm)).trans ih) m hm
    have hB (m : Nat) : (r.sys m).messages.length ≤ (r.sys n).messages.length := by
      rw [← hconst (max m n) (le_max_right m n)]
      exact r.monotone_messages (le_max_left m n)
    obtain ⟨n₀, hacked⟩ := hfair.eventually_acked hfits hv hB
    refine ⟨n₀, fun m hm => ?_⟩
    have hinv := r.inv hfits hv m
    have hall := hinv.acked_add_count
    rw [hacked m hm, Nat.add_eq_left] at hall
    exact quiescent_of_empty hinv.invA.sender (List.length_eq_zero_iff.1 hall)

end Sys2Proof.Machine
end

section
/-! # The sequence arithmetic and its unit on registers (`40_seq_arith.md` R121 to R128) -/

namespace Sys2Proof.Machine

/-- Settles O13: an offset below `SEQ_LEN` and the number it leads to determine each other; the two ways round add up to
`SEQ_LEN`. -/
theorem seqDistAndSeqAddAreInverse : Obligations.SeqDistAndSeqAddAreInverse := by
  intro L a b n ha hb hn
  refine ⟨seqDist_seqAdd hb hn, seqAdd_seqDist ha hb, fun hne => ?_, ?_⟩
  · rw [seqDist_eq ha hb, seqDist_eq hb ha]
    split_ifs <;> omega
  · rcases Nat.lt_or_ge 1 L with hL | hL
    · rw [seqPrev, seqDist_eq_seqAdd_sub hb hL, seqDist_seqAdd hb (by omega)]
    · have hlt := seqDist_lt (by omega) (seqPrev L b) b (L := L)
      omega

/-! ## Registers of `SEQ_W` and `SEQ_W + 1` bits -/

section

variable (c : Straps) {a b : Nat}

theorem toNat_setWidth_seqReg (ha : a < c.seqLen) : ((seqReg c a).setWidth (c.seqW + 1)).toNat = a := by
  have hle := seqLen_le_two_pow_seqW c
  rw [BitVec.toNat_setWidth, seqReg_toNat c ha, Nat.mod_eq_of_lt (by rw [pow_succ]; omega)]

/-- A number of `SEQ_W + 1` bits that is below `SEQ_LEN` fits the register. -/
theorem toNat_setWidth_of_lt {t : BitVec (c.seqW + 1)} (ht : t.toNat < c.seqLen) : (t.setWidth c.seqW).toNat = t.toNat := by
  rw [BitVec.toNat_setWidth, Nat.mod_eq_of_lt (ht.trans_le (seqLen_le_two_pow_seqW c))]

theorem toNat_ofNat_seqLen : (BitVec.ofNat (c.seqW + 1) c.seqLen).toNat = c.seqLen := by
  have hle := seqLen_le_two_pow_seqW c
  have := c.seqLen_pos
  rw [BitVec.toNat_ofNat, Nat.mod_eq_of_lt (by rw [pow_succ]; omega)]

theorem toNat_seqIncReg (ha : a < c.seqLen) : (seqIncReg c (seqReg c a)).toNat = seqInc c.seqLen a := by
  have hle := seqLen_le_two_pow_seqW c
  have hone : (1 : BitVec (c.seqW + 1)).toNat = 1 := BitVec.toNat_one (Nat.succ_pos _)
  have hsum : ((seqReg c a).setWidth (c.seqW + 1) + 1).toNat = a + 1 := by
    rw [BitVec.toNat_add, toNat_setWidth_seqReg c ha, hone, Nat.mod_eq_of_lt (by rw [pow_succ]; omega)]
  rw [seqIncReg, seqInc_eq ha, hsum]
  split
  · rfl
  · rw [toNat_setWidth_of_lt c (by omega), hsum]

variable (ha : a < c.seqLen) (hb : b < c.seqLen)
include ha hb

theorem toNat_seqAddReg : (seqAddReg c (seqReg c a) (seqReg c b)).toNat = seqAdd c.seqLen a b := by
  have hle := seqLen_le_two_pow_seqW c
  have hsum : ((seqReg c a).setWidth (c.seqW + 1) + (seqReg c b).setWidth (c.seqW + 1)).toNat = a + b := by
    rw [BitVec.toNat_add, toNat_setWidth_seqReg c ha, toNat_setWidth_seqReg c hb, Nat.mod_eq_of_lt (by rw [pow_succ]; omega)]
  rw [seqAddReg, seqAdd_eq ha hb.le]
  rw [hsum]
  split
  · rw [toNat_setWidth_of_lt c (by omega), hsum]
  · have hdiff : ((seqReg c a).setWidth (c.seqW + 1) + (seqReg c b).setWidth (c.seqW + 1) -
        BitVec.ofNat (c.seqW + 1) c.seqLen).toNat = a + b - c.seqLen := by
      rw [BitVec.toNat_sub_of_le (by rw [BitVec.le_def, hsum, toNat_ofNat_seqLen]; omega), hsum, toNat_ofNat_seqLen]
    rw [toNat_setWidth_of_lt c (by omega), hdiff]

/-- The sign of the difference tells whether the numbers have wrapped. -/
theorem msb_seqReg_sub : ((seqReg c a).setWidth (c.seqW + 1) - (seqReg c b).setWidth (c.seqW + 1)).msb = decide (a < b) := by
  have hle := seqLen_le_two_pow_seqW c
  rw [BitVec.msb_eq_decide, BitVec.toNat_sub, toNat_setWidth_seqReg c ha, toNat_setWidth_seqReg c hb, Nat.add_sub_cancel, pow_succ]
  rcases lt_or_ge a b with hlt | hge
  · rw [Nat.mod_eq_of_lt (by omega)]
    simp only [hlt, decide_true, decide_eq_true_eq]
    omega
  · rw [show 2 ^ c.seqW * 2 - b + a = a - b + 2 ^ c.seqW * 2 by omega, Nat.add_mod_right, Nat.mod_eq_of_lt (by omega)]
    simp only [hge.not_gt, decide_false, decide_eq_false_iff_not]
    omega

theorem toNat_seqDistReg : (seqDistReg c (seqReg c a) (seqReg c b)).toNat = seqDist c.seqLen a b := by
  have hle := seqLen_le_two_pow_seqW c
  rw [seqDistReg, seqDist_eq ha hb]
  rw [msb_seqReg_sub c ha hb]
  rcases lt_or_ge a b with hlt | hge
  · have hsum : ((seqReg c a).setWidth (c.seqW + 1) - (seqReg c b).setWidth (c.seqW + 1) +
        BitVec.ofNat (c.seqW + 1) c.seqLen).toNat = a + c.seqLen - b := by
      rw [BitVec.toNat_add, BitVec.toNat_sub, toNat_setWidth_seqReg c ha, toNat_setWidth_seqReg c hb, toNat_ofNat_seqLen,
        Nat.mod_add_mod, show 2 ^ (c.seqW + 1) - b + a + c.seqLen = a + c.seqLen - b + 2 ^ (c.seqW + 1) by
          rw [pow_succ]; omega, Nat.add_mod_right, Nat.mod_eq_of_lt (by rw [pow_succ]; omega)]
    rw [if_pos (decide_eq_true hlt), if_neg hlt.not_ge, toNat_setWidth_of_lt c (by omega), hsum]
  · have hdiff : ((seqReg c a).setWidth (c.seqW + 1) - (seqReg c b).setWidth (c.seqW + 1)).toNat = a - b := by
      rw [BitVec.toNat_sub_of_le (by rw [BitVec.le_def, toNat_setWidth_seqReg c ha, toNat_setWidth_seqReg c hb]; exact hge),
        toNat_setWidth_seqReg c ha, toNat_setWidth_seqReg c hb]
    rw [if_neg (by simpa using hge), if_pos hge, toNat_setWidth_of_lt c (by omega), hdiff]

/-- The unit's difference is the register of the distance. -/
theorem seqDistReg_eq : seqDistReg c (seqReg c a) (seqReg c b) = seqReg c (seqDist c.seqLen a b) :=
  BitVec.eq_of_toNat_eq ((toNat_seqDistReg c ha hb).trans (seqReg_toNat c (seqDist_lt c.seqLen_pos a b)).symm)

end

/-- Settles O17: the two comparators read the register of the distance. -/
theorem sequenceUnitComputesTheArithmetic : Obligations.SequenceUnitComputesTheArithmetic := by
  intro c a b ha hb
  have hdist := seqDist_lt c.seqLen_pos a b
  refine ⟨toNat_seqIncReg c ha, toNat_seqAddReg c ha hb, toNat_seqDistReg c ha hb, fun len hlen => ?_, ?_⟩
  · rw [inWindowReg, seqDistReg_eq c ha hb, seqLtReg_seqReg c hdist (hlen.trans_lt c.windowLen_lt_seqLen), inWindow]
  · have hlast : c.seqLen - 1 < c.seqLen := Nat.sub_lt c.seqLen_pos one_pos
    rw [isPrevReg, seqIsLastReg, seqDistReg_eq c ha hb, beq_iff_eq, ← BitVec.toNat_inj, seqReg_toNat c hdist,
      seqReg_toNat c hlast]

end Sys2Proof.Machine
end

section
/-! # The window stores as rings (`20_memory.md` R61 to R64, `42_window_buffer.md`) -/

namespace Sys2Proof.Machine

/-! ## Words of a ring -/

section

variable {W base i j : Nat} {store : List StoreWord}

/-- `SEQ_LEN` is a multiple of `W`, so reducing a number modulo `SEQ_LEN` does not move its word. -/
theorem ringSlot_seqAdd (W base i : Nat) : ringSlot W (seqAdd (2 * W) base i) = ringSlot W (base + i) :=
  Nat.mod_mod_of_dvd _ (Nat.dvd_mul_left W 2)

theorem ringSlot_seqAdd_add (W base i j : Nat) : ringSlot W (seqAdd (2 * W) base i + j) = ringSlot W (base + i + j) := by
  have hslot : seqAdd (2 * W) base i % W = (base + i) % W := ringSlot_seqAdd W base i
  rw [ringSlot, ringSlot, Nat.add_mod, hslot, ← Nat.add_mod]

/-- The `W` words from the base on are different words. -/
theorem ringSlot_inj (h : ringSlot W (base + i) = ringSlot W (base + j)) (hi : i < W) (hj : j < W) : i = j :=
  Nat.add_left_cancel (eq_of_mod_eq (lo := base) h (Nat.le_add_right ..) (Nat.le_add_right ..) (by omega) (by omega))

theorem ringSlot_lt (hlen : store.length = W) (hW : 0 < W) (s : Nat) : ringSlot W s < store.length :=
  (Nat.mod_lt _ hW).trans_eq hlen.symm

theorem ringRead_set (hlen : store.length = W) (hi : i < W) (hj : j < W) (w : StoreWord) :
    ringRead W base j (store.set (ringSlot W (base + i)) w) = if i = j then some w else ringRead W base j store := by
  rw [ringRead, List.getElem?_set, if_pos (ringSlot_lt hlen (Nat.zero_lt_of_lt hi) _)]
  by_cases hij : i = j
  · rw [if_pos hij, if_pos (congrArg (ringSlot W <| base + ·) hij)]
  · rw [if_neg hij, if_neg fun heq => hij (ringSlot_inj heq hi hj), ringRead]

theorem ringRead_modify (hi : i < W) (hj : j < W) (g : StoreWord → StoreWord) :
    ringRead W base j (store.modify (ringSlot W (base + i)) g) =
      if i = j then (ringRead W base j store).map g else ringRead W base j store := by
  rw [ringRead, ringRead, List.getElem?_modify]
  by_cases hij : i = j
  · rw [if_pos hij, hij]
    simp
  · rw [if_neg hij]
    simp [mt (ringSlot_inj · hi hj) hij]

/-- Entry `j` of the window is read from its word. -/
theorem ringWin_getElem? (hlen : store.length = W) (hW : 0 < W) (count j : Nat) :
    (ringWin W base count store)[j]? = if j < count then (ringRead W base j store).map fun w => ⟨w.pkt, w.mark⟩ else none := by
  have hread (i : Nat) : ∃ w, ringRead W base i store = some w := ⟨_, List.getElem?_eq_getElem (ringSlot_lt hlen hW _)⟩
  choose word hword using hread
  simp only [ringWin, hword, Option.map_some, List.filterMap_eq_map', List.getElem?_map]
  split
  · next hj => rw [List.getElem?_range hj, Option.map_some]
  · next hj => rw [List.getElem?_eq_none (by simpa using hj), Option.map_none]

theorem ringSlots_getElem? (base : Nat) (store : List StoreWord) (j : Nat) :
    (ringSlots W base store)[j]? =
      if j < W then some ((ringRead W base j store).bind fun w => if w.mark then some w.pkt else none) else none := by
  rw [ringSlots, List.getElem?_map]
  split
  · next hj => rw [List.getElem?_range hj, Option.map_some]
  · next hj => rw [List.getElem?_eq_none (by simpa using hj), Option.map_none]

end

/-! ## The sender's ring -/

section

variable {c : Straps} {r : Sender} {store : List StoreWord} (h : SenderShape c r) (hlen : store.length = c.windowLen)
  (hwin : r.win = ringWin c.windowLen r.base r.count store)
include h hlen hwin

theorem swPush_refines (f : Frame) (hroom : r.count < c.windowLen) :
    (swPush f r).win = ringWin c.windowLen r.base (r.count + 1) (ringPush c.windowLen r.nextseqnum f store) := by
  have hslot : ringSlot c.windowLen r.nextseqnum = ringSlot c.windowLen (r.base + r.count) := by
    rw [h.next_eq]
    exact ringSlot_seqAdd ..
  have hlen' : (ringPush c.windowLen r.nextseqnum f store).length = c.windowLen := List.length_set.trans hlen
  refine List.ext_getElem? fun j => ?_
  rw [swPush_win, ringWin_getElem? hlen' c.windowLen_pos, ringPush, hslot]
  rcases lt_trichotomy j r.count with hj | rfl | hj
  · rw [if_pos (Nat.lt_succ_of_lt hj), ringRead_set hlen hroom (hj.trans hroom), if_neg hj.ne', List.getElem?_append_left hj, hwin,
      ringWin_getElem? hlen c.windowLen_pos, if_pos hj]
  · rw [if_pos (Nat.lt_succ_self _), ringRead_set hlen hroom hroom, if_pos rfl]
    exact List.getElem?_concat_length ..
  · rw [if_neg (by omega)]
    exact List.getElem?_eq_none (by rw [List.length_append]; exact hj)

omit h in
theorem swPopFront_refines (n : Nat) :
    (swPopFront c.seqLen n r).win = ringWin c.windowLen (swPopFront c.seqLen n r).base (r.count - n) store := by
  refine List.ext_getElem? fun j => ?_
  rw [swPopFront_win, List.getElem?_drop, hwin, ringWin_getElem? hlen c.windowLen_pos,
    ringWin_getElem? hlen c.windowLen_pos, ringRead, ringRead, swPopFront_base]
  have hslot : ringSlot c.windowLen (seqAdd c.seqLen r.base n + j) = ringSlot c.windowLen (r.base + (n + j)) := by
    rw [← Nat.add_assoc]
    exact ringSlot_seqAdd_add ..
  rw [hslot]
  exact if_congr (by omega) rfl rfl

theorem swSetAcked_refines {i : Nat} (hi : i < r.count) :
    (swSetAcked i r).win = ringWin c.windowLen r.base r.count (ringSetAcked c.windowLen r.base i store) := by
  have hlen' : (ringSetAcked c.windowLen r.base i store).length = c.windowLen := (List.length_modify ..).trans hlen
  refine List.ext_getElem? fun j => ?_
  rw [swSetAcked_win, List.getElem?_modify, hwin, ringWin_getElem? hlen c.windowLen_pos,
    ringWin_getElem? hlen' c.windowLen_pos, ringSetAcked]
  by_cases hj : j < r.count
  · rw [if_pos hj, if_pos hj, ringRead_modify (hi.trans_le h.count_le) (hj.trans_le h.count_le)]
    cases ringRead c.windowLen r.base j store <;> by_cases hij : i = j <;> simp [hij]
  · rw [if_neg hj, if_neg hj]
    rfl

end

/-- Settles O18: entry by entry, each read from its word. -/
theorem senderRingRefinesWindow : Obligations.SenderRingRefinesWindow := by
  intro c r store f n i h hlen hwin
  exact ⟨swPush_refines h hlen hwin f, fun _ => swPopFront_refines hlen hwin n, swSetAcked_refines h hlen hwin⟩

/-! ## The receiver's ring -/

section

variable {c : Straps} {r : Receiver} {store : List StoreWord} (hlen : store.length = c.windowLen)
  (hslots : r.slots = ringSlots c.windowLen r.base store)
include hlen hslots

theorem rwStore_refines (f : Frame) {i : Nat} (hi : i < c.windowLen) :
    (rwStore i f r).slots = ringSlots c.windowLen r.base (ringStore c.windowLen (seqAdd c.seqLen r.base i) f store) := by
  have hslot : ringSlot c.windowLen (seqAdd c.seqLen r.base i) = ringSlot c.windowLen (r.base + i) := ringSlot_seqAdd ..
  have hwidth : r.slots.length = c.windowLen := by rw [hslots, ringSlots, List.length_map, List.length_range]
  refine List.ext_getElem? fun j => ?_
  rw [rwStore_slots, ringSlots_getElem?, ringStore, hslot]
  by_cases hj : j < c.windowLen
  · rw [if_pos hj, ringRead_set hlen hi hj, List.getElem?_set, hwidth, if_pos hi]
    split
    · rfl
    · rw [hslots, ringSlots_getElem?, if_pos hj]
  · rw [if_neg hj]
    exact List.getElem?_eq_none (by rw [List.length_set, hwidth]; exact not_lt.1 hj)

theorem rwShift_refines :
    (rwShift c.seqLen r).slots = ringSlots c.windowLen (rwShift c.seqLen r).base (ringRecycle c.windowLen r.base store) := by
  have hwidth : r.slots.length = c.windowLen := by rw [hslots, ringSlots, List.length_map, List.length_range]
  have hread (j : Nat) (store : List StoreWord) :
      ringRead c.windowLen (seqInc c.seqLen r.base) j store = ringRead c.windowLen r.base (j + 1) store := by
    have hslot : ringSlot c.windowLen (seqAdd c.seqLen r.base 1 + j) = ringSlot c.windowLen (r.base + 1 + j) :=
      ringSlot_seqAdd_add ..
    rw [ringRead, ringRead, ← seqAdd_one, hslot, Nat.add_assoc, Nat.add_comm 1 j]
  have hwrap (store : List StoreWord) : ringRead c.windowLen r.base c.windowLen store = ringRead c.windowLen r.base 0 store := by
    rw [ringRead, ringRead, ringSlot, ringSlot, Nat.add_mod_right, Nat.add_zero]
  refine List.ext_getElem? fun j => ?_
  show (r.slots.drop 1 ++ [none])[j]? =
    (ringSlots c.windowLen (seqInc c.seqLen r.base) (store.modify (ringSlot c.windowLen (r.base + 0)) _))[j]?
  have hdrop : (r.slots.drop 1).length = c.windowLen - 1 := by rw [List.length_drop, hwidth]
  rw [ringSlots_getElem?, hread]
  rcases lt_trichotomy (j + 1) c.windowLen with hj | hj | hj
  · rw [List.getElem?_append_left (by omega), List.getElem?_drop, hslots, ringSlots_getElem?, if_pos (by omega), if_pos (by omega),
      ringRead_modify c.windowLen_pos hj, if_neg (Nat.succ_ne_zero j).symm, Nat.add_comm 1 j]
  · rw [List.getElem?_append_right (by omega), show j - (r.slots.drop 1).length = 0 by omega,
      if_pos (show j < c.windowLen by omega), hj, hwrap,
      ringRead_modify c.windowLen_pos c.windowLen_pos, if_pos rfl]
    cases ringRead c.windowLen r.base 0 store <;> rfl
  · rw [if_neg (by omega), List.getElem?_eq_none]
    rw [List.length_append, hdrop, List.length_singleton, Nat.sub_add_cancel c.windowLen_pos]
    exact Nat.le_of_lt_succ hj

end

/-- Settles O19: slot by slot, each read from its word. -/
theorem receiverRingRefinesWindow : Obligations.ReceiverRingRefinesWindow := by
  intro c r store f i _ hlen hslots
  exact ⟨rwStore_refines hlen hslots f, rwShift_refines hlen hslots⟩

/-! ## Reset -/

theorem ringSlots_ringReset {W : Nat} (base : Nat) (store : List StoreWord) :
    ringSlots W base (ringReset store) = List.replicate W none := by
  refine List.ext_getElem? fun j => ?_
  rw [ringSlots_getElem?, List.getElem?_replicate, ringRead, ringReset_getElem?]
  cases store[ringSlot W (base + j)]? <;> rfl

/-- Settles O20: the windows of the reset state are empty and blank, and so is what the cleared stores stand for. -/
theorem ringResetRefinesReset : Obligations.RingResetRefinesReset := by
  intro s v T rest sw rw h _ _
  have hpkt (store : List StoreWord) : (ringReset store).map (·.pkt) = store.map (·.pkt) := by
    rw [ringReset, List.map_map]
    rfl
  have hmark (store : List StoreWord) : ∀ w ∈ ringReset store, w.mark = false := by
    simp [ringReset]
  exact ⟨hpkt sw, hpkt rw, fun w hw => (List.mem_append.1 hw).elim (hmark sw w) (hmark rw w), _, step_rst h, rfl,
    (ringSlots_ringReset _ rw).symm⟩

end Sys2Proof.Machine
end

section
/-! # What `ARQ-CK32` detects (`41_checksum_frame.md` R131, R133) -/

namespace Sys2Proof.Machine

/-! ## The two halves of the checksum -/

theorem sum_set_add {l : List Nat} {i a : Nat} (b : Nat) (h : l[i]? = some a) : (l.set i b).sum + a = l.sum + b := by
  induction l generalizing i with
  | nil => cases h
  | cons x xs ih =>
    cases i with
    | zero =>
      cases h
      simp only [List.set_cons_zero, List.sum_cons]
      omega
    | succ i =>
      have htail := ih h
      simp only [List.set_cons_succ, List.sum_cons]
      omega

/-- The sum of the bytes, which the low half holds (R133). -/
def byteSum (B : List Byte) : Nat := (B.map (·.toNat)).sum

/-- The sum of the bytes, each as often as bytes are left from it on, which the high half holds (R133). -/
def weightedSum (B : List Byte) : Nat := (B.mapIdx fun i x => (B.length - i) * x.toNat).sum

theorem byteSum_set {B : List Byte} {i : Nat} {x : Byte} (y : Byte) (h : B[i]? = some x) :
    byteSum (B.set i y) + x.toNat = byteSum B + y.toNat := by
  rw [byteSum, List.map_set]
  exact sum_set_add _ (by rw [List.getElem?_map, h]; rfl)

theorem weightedSum_set {B : List Byte} {i : Nat} {x : Byte} (y : Byte) (h : B[i]? = some x) :
    weightedSum (B.set i y) + (B.length - i) * x.toNat = weightedSum B + (B.length - i) * y.toNat := by
  rw [weightedSum, List.length_set, List.mapIdx_set]
  exact sum_set_add _ (by rw [List.getElem?_mapIdx, h]; rfl)

/-- Equal checksums have equal sums in both halves, modulo `2^16`. -/
theorem sums_of_arqCk32_eq {B C : List Byte} (h : arqCk32 B = arqCk32 C) :
    (C.length + weightedSum C) % 2 ^ 16 = (B.length + weightedSum B) % 2 ^ 16 ∧ byteSum C % 2 ^ 16 = byteSum B % 2 ^ 16 := by
  have hnat := congrArg BitVec.toNat h
  rw [checksumClosedForm B, checksumClosedForm C, ← weightedSum, ← weightedSum, ← byteSum, ← byteSum, BitVec.toNat_append,
    BitVec.toNat_append, ← Nat.shiftLeft_add_eq_or_of_lt (BitVec.isLt _), ← Nat.shiftLeft_add_eq_or_of_lt (BitVec.isLt _),
    Nat.shiftLeft_eq, Nat.shiftLeft_eq] at hnat
  simp only [BitVec.toNat_ofNat] at hnat
  omega

/-- Another byte at one position changes the low half. -/
theorem arqCk32_set_ne {B : List Byte} {i : Nat} {x y : Byte} (h : B[i]? = some x) (hne : x ≠ y) :
    arqCk32 (B.set i y) ≠ arqCk32 B := by
  intro heq
  have hlow := (sums_of_arqCk32_eq heq).2
  have hsum := byteSum_set y h
  have hx := x.isLt
  have hy := y.isLt
  exact hne (BitVec.eq_of_toNat_eq (by omega))

/-- Two different bytes at most 256 apart, exchanged, change the high half. -/
theorem arqCk32_swap_ne {B : List Byte} {i j : Nat} {x y : Byte} (hij : i < j) (hfar : j - i ≤ 256) (hi : B[i]? = some x)
    (hj : B[j]? = some y) (hne : x ≠ y) : arqCk32 ((B.set i y).set j x) ≠ arqCk32 B := by
  intro heq
  have hhigh := (sums_of_arqCk32_eq heq).1
  have hfirst := weightedSum_set y hi
  have hsecond := weightedSum_set x ((List.getElem?_set_ne hij.ne).trans hj : (B.set i y)[j]? = some y)
  have hlen := (List.getElem?_eq_some_iff.1 hj).1
  rw [List.length_set, List.length_set] at hhigh
  rw [List.length_set] at hsecond
  have hsplit : B.length - i = (B.length - j) + (j - i) := by omega
  rw [hsplit, Nat.add_mul, Nat.add_mul] at hfirst
  have hx : (j - i) * x.toNat ≤ 256 * 255 := Nat.mul_le_mul hfar (Nat.le_of_lt_succ x.isLt)
  have hy : (j - i) * y.toNat ≤ 256 * 255 := Nat.mul_le_mul hfar (Nat.le_of_lt_succ y.isLt)
  have hprod : (j - i) * x.toNat = (j - i) * y.toNat := by omega
  exact hne (BitVec.eq_of_toNat_eq (Nat.eq_of_mul_eq_mul_left (by omega) hprod))

/-- Settles O12: positions in a string of at most 257 bytes are at most 256 apart. -/
theorem byteSwapChangesChecksum : Obligations.ByteSwapChangesChecksum := by
  intro B i j x y hij hi hj hne hlen
  have hlt := (List.getElem?_eq_some_iff.1 hj).1
  exact arqCk32_swap_ne hij (by omega) hi hj hne

/-! ## The contract of a checksum -/

/-- The checksum input of a frame with another byte in its payload. -/
theorem cin_set_payload (f : Frame) (i : Nat) (y : Byte) :
    cin { f with payload := f.payload.set i y } = (cin f).set (12 + i) y := by
  rw [cin, cin, List.set_append_right _ _ (by simp [be32Bytes_length])]
  simp [be32Bytes_length]

theorem cin_getElem?_payload (f : Frame) (i : Nat) : (cin f)[12 + i]? = f.payload[i]? := by
  rw [cin, List.getElem?_append_right (by simp [be32Bytes_length])]
  simp [be32Bytes_length]

theorem ckByte_of_arqCk32 {c : Straps} (hc : c.checksum = .arqCk32) : CkByte c := by
  intro f i y _ hi hne
  rw [ck_arqCk32 hc, ck_arqCk32 hc, cin_set_payload]
  refine arqCk32_set_ne (x := f.payload[i]) ?_ fun hxy => hne ?_
  · rw [cin_getElem?_payload, List.getElem?_eq_getElem hi]
  · rw [List.getElem?_eq_getElem hi, hxy]

/-- The checksum input of a frame of number `n` that is 0 but for its number. -/
theorem cin_zeroFrame (n : Word32) (P : Nat) :
    cin ⟨n, 0#32, 0#32, zeroBytes P⟩ = be32Bytes n ++ zeroBytes (8 + P) := by
  simp [cin, be32Bytes, zeroBytes, List.replicate_add]

/-- The frames numbered 1 and 256 with equal payloads have the same bytes in another order, and different checksums. -/
theorem ckOrder_of_arqCk32 {c : Straps} (hc : c.checksum = .arqCk32) : CkOrder c := by
  refine ⟨⟨1#32, 0#32, 0#32, zeroBytes c.payloadSize⟩, ⟨256#32, 0#32, 0#32, zeroBytes c.payloadSize⟩, zeroBytes_length _,
    zeroBytes_length _, ?_, ?_⟩
  · rw [cin_zeroFrame, cin_zeroFrame]
    exact List.Perm.append_right _ (by decide)
  · rw [ck_arqCk32 hc, ck_arqCk32 hc, cin_zeroFrame, cin_zeroFrame]
    have hone : be32Bytes 1#32 ++ zeroBytes (8 + c.payloadSize)
        = ((be32Bytes 256#32 ++ zeroBytes (8 + c.payloadSize)).set 2 0#8).set 3 1#8 := by
      rw [List.set_append_left _ _ (by decide), List.set_append_left _ _ (by decide)]
      rfl
    rw [hone]
    exact arqCk32_swap_ne (by decide) (by decide) (List.getElem?_append_left (by decide))
      (List.getElem?_append_left (by decide)) (by decide)

/-- Settles O8: a payload byte is a byte of the checksum input, and two adjacent bytes may be exchanged. -/
theorem defaultChecksumMeetsTheContract : Obligations.DefaultChecksumMeetsTheContract :=
  fun _ hc => ⟨ckByte_of_arqCk32 hc, ckOrder_of_arqCk32 hc⟩

theorem valid_eq_false_iff (c : Straps) (f : Frame) : valid c f = false ↔ f.checksum ≠ ck c f := by
  rw [← Bool.not_eq_true, valid_iff]

/-- Settles O10: a frame is made valid by its own checksum, which its payload determines. -/
theorem payloadByteChangeInvalidates : Obligations.PayloadByteChangeInvalidates := by
  intro c
  constructor
  · intro h f i y hwf hvalid hi hne
    rw [valid_eq_false_iff]
    exact ((valid_iff c f).1 hvalid).trans_ne (h f i y hwf hi hne).symm
  · intro h f i y hwf hi hne
    have hinvalid := h { f with checksum := ck c f } i y hwf ((valid_iff ..).2 (ck_congr c rfl rfl rfl)) hi hne
    rw [valid_eq_false_iff] at hinvalid
    exact hinvalid.symm

/-! ## Any byte of the wire form -/

theorem toBytes_of_ofBytes {B : List Byte} {g : Frame} (h : Frame.ofBytes B = some g) : g.toBytes = B := by
  unfold Frame.ofBytes at h
  split at h
  · cases h
    simp [Frame.toBytes, be32Bytes_be32]
  · cases h

/-- Bytes 8 to 11 of the wire form are those of the checksum field. -/
theorem drop_take_toBytes (f : Frame) : (f.toBytes.drop 8).take 4 = be32Bytes f.checksum := rfl

theorem be32Bytes_inj {v w : Word32} (h : be32Bytes v = be32Bytes w) : v = w := by
  simp only [be32Bytes, List.cons.injEq, and_true] at h
  obtain ⟨h0, h1, h2, h3⟩ := h
  rw [← be32_be32Bytes v, ← be32_be32Bytes w, h0, h1, h2, h3]

/-- Zeros in the checksum field. -/
def zeroChecksum (B : List Byte) : List Byte := (((B.set 8 0#8).set 9 0#8).set 10 0#8).set 11 0#8

theorem cin_eq_zeroChecksum (f : Frame) : cin f = zeroChecksum f.toBytes := rfl

theorem zeroChecksum_set_field (B : List Byte) {i : Nat} (y : Byte) (hlow : 8 ≤ i) (hhigh : i < 12) :
    zeroChecksum (B.set i y) = zeroChecksum B := by
  refine List.ext_getElem? fun k => ?_
  unfold zeroChecksum
  grind

theorem zeroChecksum_set_other (B : List Byte) {i : Nat} (y : Byte) (h : ¬ (8 ≤ i ∧ i < 12)) :
    zeroChecksum (B.set i y) = (zeroChecksum B).set i y := by
  unfold zeroChecksum
  rw [List.set_comm y _ (by omega : i ≠ 8), List.set_comm y _ (by omega : i ≠ 9), List.set_comm y _ (by omega : i ≠ 10),
    List.set_comm y _ (by omega : i ≠ 11)]

theorem zeroChecksum_getElem? (B : List Byte) {i : Nat} (h : ¬ (8 ≤ i ∧ i < 12)) : (zeroChecksum B)[i]? = B[i]? := by
  unfold zeroChecksum
  rw [List.getElem?_set_ne (by omega), List.getElem?_set_ne (by omega), List.getElem?_set_ne (by omega),
    List.getElem?_set_ne (by omega)]

theorem checksum_eq_iff {f g : Frame} : f.checksum = g.checksum ↔ ∀ k < 4, f.toBytes[8 + k]? = g.toBytes[8 + k]? := by
  constructor
  · intro h k hk
    have hget := congrArg (·[k]?) (congrArg be32Bytes h)
    simpa only [← drop_take_toBytes, List.getElem?_take_of_lt hk, List.getElem?_drop] using hget
  · intro h
    refine be32Bytes_inj (List.ext_getElem? fun k => ?_)
    rw [← drop_take_toBytes, ← drop_take_toBytes, List.getElem?_take, List.getElem?_take]
    split
    · next hk => rw [List.getElem?_drop, List.getElem?_drop, h k hk]
    · rfl

/-- Settles O11: a byte of the checksum field changes the checksum but not its input, and any other byte the input but not the
checksum. -/
theorem anyByteChangeInvalidates : Obligations.AnyByteChangeInvalidates := by
  intro c f g i y hc hvalid hi hne hg
  have hbytes := toBytes_of_ofBytes hg
  rw [valid_iff, ck_arqCk32 hc] at hvalid
  rw [valid_eq_false_iff, ck_arqCk32 hc]
  by_cases hfield : 8 ≤ i ∧ i < 12
  case pos =>
    have hcin : cin g = cin f := by
      rw [cin_eq_zeroChecksum, cin_eq_zeroChecksum, hbytes, zeroChecksum_set_field _ y hfield.1 hfield.2]
    intro heq
    have hsame := checksum_eq_iff.1 (heq.trans ((congrArg arqCk32 hcin).trans hvalid.symm)) (i - 8) (by omega)
    rw [Nat.add_sub_cancel' hfield.1, hbytes, List.getElem?_set_self hi] at hsame
    exact hne hsame.symm
  case neg =>
    have hcin : cin g = (cin f).set i y := by
      rw [cin_eq_zeroChecksum, cin_eq_zeroChecksum, hbytes, zeroChecksum_set_other _ y (by omega)]
    have hck : g.checksum = f.checksum := by
      refine checksum_eq_iff.2 fun k hk => ?_
      rw [hbytes, List.getElem?_set_ne (by omega)]
    have hget : (cin f)[i]? = some f.toBytes[i] := by
      rw [cin_eq_zeroChecksum, zeroChecksum_getElem? _ (by omega), List.getElem?_eq_getElem hi]
    rw [hck, hvalid, hcin]
    refine (arqCk32_set_ne hget fun hxy => hne ?_).symm
    rw [List.getElem?_eq_getElem hi, hxy]

end Sys2Proof.Machine
end

section
/-! # Which ACKs and timeouts are independent (`45_sr_sender.md` R191, R193, R195, `47_tcp_sender.md` R224,
`60_exceptions.md` R257) -/

namespace Sys2Proof.Machine

/-! ## An accepted `SR.ACK` -/

theorem swSetAcked_getElem?_ne {i j : Nat} (r : Sender) (h : i ≠ j) : (swSetAcked i r).win[j]? = r.win[j]? := by
  rw [swSetAcked_win, List.getElem?_modify_ne _ _ h]

/-- Settles O37: the window after the mark is popped by its acknowledged prefix, whose entries were acknowledged before but for the
marked one. -/
theorem srAckTouchesOnlyItsOwnSlot : Obligations.SrAckTouchesOnlyItsOwnSlot := by
  intro s t f hshape h hok
  have hb := hshape.base_lt
  obtain ⟨d, acts, u, hcase, rfl⟩ := exec_next_cases h
  cases hok
  cases hcase with
  | raised hd => exact absurd hd (by simp [raisedBy])
  | fifoSend hi | resendAck hi | inOrder hi => rcases hi with hi | hi <;> cases hi
  | @srAck _ a e ha hlt he hacked =>
    have hnumber := seqAdd_seqDist hlt hb
    have hle := length_ackedPrefix_le (swSetAcked (seqDist s.straps.seqLen a s.snd.base) s.snd).win
    rw [show (swSetAcked (seqDist s.straps.seqLen a s.snd.base) s.snd).win.length = s.snd.count from swSetAcked_count _ _] at hle
    rw [swSlideAcked_eq_popFront (r := swSetAcked _ s.snd) hb]
    refine ⟨a, _, ha, hlt, hle, fun k hk => ?_, ?_, rfl, ?_, fun i x hx hne => ?_, fun i x hx hi => ?_⟩
    · exact (running_timerStop a k s.ta).trans (if_neg hk)
    · exact (running_timerStop a a s.ta).trans (if_pos rfl)
    · exact List.length_drop.trans (by rw [show List.length _ = s.snd.count from swSetAcked_count _ _])
    · refine List.getElem?_drop.trans ((swSetAcked_getElem?_ne s.snd fun hidx => hne ?_).trans hx)
      rw [← hidx, hnumber]
    · by_cases hidx : seqDist s.straps.seqLen a s.snd.base = i
      · exact .inr (hidx ▸ hnumber)
      · exact .inl (holds_of_lt_takeWhile hi ((swSetAcked_getElem?_ne s.snd hidx).trans hx))

/-! ## Duplicate ACKs -/

/-- A duplicate is counted modulo 3, and the third retransmits the head (R224). -/
theorem countDuplicate_of_head {s : State} {e : Entry} (hdup : s.snd.dup ≤ 2) (he : s.snd.win.head? = some e) :
    ∃ out, countDuplicate s = .next { s with snd := { s.snd with dup := (s.snd.dup + 1) % 3 }, out := out } ∧
      out.dataFrames = List.replicate ((s.snd.dup + 1) / 3) e.pkt := by
  by_cases hthird : s.snd.dup = 2
  · refine ⟨⟨some .sender, [.txData e.pkt], some .fastRetx⟩, ?_, ?_⟩
    · rw [countDuplicate_of_threshold_head (congrArg (· + 1) hthird) he, hthird]
    · rw [hthird]
      rfl
  · have hmod : (s.snd.dup + 1) % 3 = s.snd.dup + 1 := Nat.mod_eq_of_lt (by omega)
    have hdiv : (s.snd.dup + 1) / 3 = 0 := Nat.div_eq_of_lt (by omega)
    refine ⟨⟨some .sender, [], some .dupAck⟩, ?_, ?_⟩
    · rw [hmod, countDuplicate_of_below fun hthree => hthird (Nat.succ.inj hthree)]
    · rw [hdiv]
      rfl

/-- What makes an ACK frame a duplicate to the sender `r` (R221, R224). -/
structure DuplicateAck (c : Straps) (r : Sender) (f : Frame) : Prop where
  variant : c.variant = Variant.tcp.code
  shape : SenderShape c r
  wf : f.wf c.payloadSize
  valid : f.checksum = ck c f
  acknum : f.acknum.toInt = seqPrev c.seqLen r.base

/-- The sender counts the frame: it is the farthest from the base, outside the window. -/
theorem step_of_duplicate {s : State} {f : Frame} {rest : List Stimulus} (h : DuplicateAck s.straps s.snd f)
    (hin : s.inputs = .event (encode s.straps.payloadSize (.tcpAck f)) :: rest) :
    step s = countDuplicate { s with inputs := rest } := by
  have hwf : (Instr.tcpAck f).wf s.straps.payloadSize = true := decide_eq_true h.wf
  rw [(stepRunsTheDecodedInstruction s _ rest _ hin).2 hwf h.variant.symm rfl]
  have hL := s.straps.seqLen_pos
  have hcount := h.shape.count_le
  have hlt : seqPrev s.straps.seqLen s.snd.base < s.straps.seqLen := seqDist_lt hL _ _
  have hfar : seqDist s.straps.seqLen (seqPrev s.straps.seqLen s.snd.base) s.snd.base = s.straps.seqLen - 1 :=
    (previousNumberIsTheFarthest _ _ _ s.straps.windowLen_pos hlt h.shape.base_lt).2.1 rfl
  refine execTcpAck_of_previous (s := { s with inputs := rest }) (readField_ok h.valid h.acknum hlt) ?_ hfar
  refine le_of_le_of_eq ?_ hfar.symm
  simp only [Straps.seqLen] at hL ⊢
  exact hcount.trans (by omega)

/-- `n` duplicates counted on from `S.dup`. -/
theorem run_of_duplicates {f : Frame} {e : Entry} (n : Nat) {s : State} (h : DuplicateAck s.straps s.snd f) (hdup : s.snd.dup ≤ 2)
    (he : s.snd.win.head? = some e)
    (hin : s.inputs = List.replicate n (.event (encode s.straps.payloadSize (.tcpAck f)))) :
    (runReports n s).flatMap Report.dataFrames = List.replicate ((s.snd.dup + n) / 3) e.pkt ∧
      ∃ t, runState n s = some t ∧ t.snd = { s.snd with dup := (s.snd.dup + n) % 3 } ∧ t.ta = s.ta := by
  induction n generalizing s with
  | zero =>
    have hmod : (s.snd.dup + 0) % 3 = s.snd.dup := Nat.mod_eq_of_lt (by omega)
    have hdiv : (s.snd.dup + 0) / 3 = 0 := Nat.div_eq_of_lt (by omega)
    rw [hmod, hdiv]
    exact ⟨rfl, s, rfl, rfl, rfl⟩
  | succ n ih =>
    obtain ⟨rest, hrest⟩ :
        ∃ rest, List.replicate n (Stimulus.event (encode s.straps.payloadSize (.tcpAck f))) = rest := ⟨_, rfl⟩
    rw [List.replicate_succ, hrest] at hin
    obtain ⟨out, hcount, hout⟩ := countDuplicate_of_head (s := { s with inputs := rest }) hdup he
    have hstep := (step_of_duplicate h hin).trans hcount
    obtain ⟨hframes, t, ht, hsnd, hta⟩ := ih (s := { s with
        snd := { s.snd with dup := (s.snd.dup + 1) % 3 }, inputs := rest, out := out })
      ⟨h.variant, ⟨h.shape.base_lt, h.shape.count_le, h.shape.next_eq⟩, h.wf, h.valid, h.acknum⟩
      (Nat.le_of_lt_succ (Nat.mod_lt _ (by decide))) he hrest.symm
    rw [runReports_succ hstep, runState_succ hstep, List.flatMap_cons, hframes, hout, ← List.replicate_add]
    refine ⟨congrArg (List.replicate · e.pkt) ?_, t, ht, hsnd.trans ?_, hta⟩
    · simp only
      omega
    · simp only [Sender.mk.injEq, true_and]
      omega

/-- Settles O38: from a cleared count. -/
theorem everyThirdDuplicateRetransmitsTheHead : Obligations.EveryThirdDuplicateRetransmitsTheHead := by
  intro s f e n hv hshape hdup he hwf hck hack hin
  have hrun := run_of_duplicates n ⟨hv, hshape, hwf, hck, hack⟩ (hdup ▸ Nat.zero_le 2) he hin
  rwa [hdup, Nat.zero_add] at hrun

/-! ## Two `SR.TIMEOUT`s -/

theorem timerStart_comm {k l : Nat} (h : k ≠ l) (d : Word32) (ta : List TimerCell) :
    timerStart k d (timerStart l d ta) = timerStart l d (timerStart k d ta) :=
  List.set_comm _ _ h.symm

/-- What `SR.TIMEOUT` of `k` emits with the timeout `T`: nothing, or a restart of its timer and one packet (R195). -/
def SrTimeoutActions (k : Nat) (T : Word32) (acts : List Action) : Prop :=
  acts = [] ∨ ∃ p, acts = [.tmrStart k T, .txData p]

/-- `SR.TIMEOUT` ends the same way whatever the arbiter holds, and writes nothing but the arbiter. -/
theorem execSrTimeout_actions (k : Word32) (s : State) :
    ∃ d acts, SrTimeoutActions k.toNat s.straps.timeoutMs acts ∧ ∀ ta out,
      exec (.srTimeout k) { s with ta := ta, out := out } =
        .next { s with ta := applyTimerActions acts ta, out := ⟨some .sender, acts, some d⟩ } := by
  by_cases hk : s.straps.seqLen ≤ k.toNat
  · exact ⟨_, [], .inl rfl, fun ta out => execSrTimeout_of_spurious (s := { s with ta := ta, out := out }) (.inl hk)⟩
  · cases he : s.snd.win[seqDist s.straps.seqLen k.toNat s.snd.base]? with
    | none =>
      exact ⟨_, [], .inl rfl, fun ta out => execSrTimeout_of_spurious (s := { s with ta := ta, out := out })
        (.inr (.inl (List.getElem?_eq_none_iff.1 he)))⟩
    | some e =>
      cases hacked : e.acked with
      | true =>
        exact ⟨_, [], .inl rfl, fun ta out => execSrTimeout_of_spurious (s := { s with ta := ta, out := out })
          (.inr (.inr ⟨e, he, hacked⟩))⟩
      | false =>
        exact ⟨_, _, .inr ⟨e.pkt, rfl⟩, fun ta out =>
          execSrTimeout_of_unacked (s := { s with ta := ta, out := out }) (not_le.1 hk) he hacked⟩

theorem applyTimerActions_comm {k l : Nat} {T : Word32} {acts acts' : List Action} (hkl : k ≠ l)
    (h : SrTimeoutActions k T acts) (h' : SrTimeoutActions l T acts') (ta : List TimerCell) :
    applyTimerActions acts (applyTimerActions acts' ta) = applyTimerActions acts' (applyTimerActions acts ta) := by
  rcases h with rfl | ⟨p, rfl⟩
  · rfl
  · rcases h' with rfl | ⟨q, rfl⟩
    · rfl
    · exact timerStart_comm hkl T ta

/-- Settles O39: each timeout ends as it ends alone, and the two start different timers. -/
theorem srTimeoutsCommute : Obligations.SrTimeoutsCommute := by
  intro s k l hkl
  obtain ⟨d, acts, hacts, hk⟩ := execSrTimeout_actions k s
  obtain ⟨d', acts', hacts', hl⟩ := execSrTimeout_actions l s
  have hne : k.toNat ≠ l.toNat := fun h => hkl (BitVec.eq_of_toNat_eq h)
  refine ⟨_, _, _, _, hk s.ta s.out, hl _ _, hl s.ta s.out, hk _ _, ?_, rfl, rfl⟩
  simp only [applyTimerActions_comm hne hacts hacts']

end Sys2Proof.Machine
end

section
/-! # Remaining times are invisible (`10_state.md` section 4) -/

namespace Sys2Proof.Machine

/-! ## No instruction reads the arbiter -/

/-- On `s` the event `g` ends the same way whatever the arbiter holds. -/
def IgnoresTimers (g : State → Result) (s : State) : Prop :=
  ∃ e d acts u, g s = done e d acts u ∧ ∀ ta, g (s.withTa ta) = done e d acts (u.withTa ta)

theorem raise_ignoresTimers (e : Engine) (d : Disposition) (s : State) : IgnoresTimers (raise e d) s :=
  ⟨e, d, [], s, rfl, fun _ => rfl⟩

theorem sendFifo_ignoresTimers (m : List Byte) (s : State) : IgnoresTimers (sendFifo m) s := by
  by_cases h : swFull s.straps.windowLen s.snd
  · exact ⟨_, _, _, _, if_pos h, fun _ => if_pos h⟩
  · exact ⟨_, _, _, _, if_neg h, fun _ => if_neg h⟩

theorem execSrSend_ignoresTimers (m : List Byte) (s : State) : IgnoresTimers (execSrSend m) s := by
  by_cases h : swFull s.straps.windowLen s.snd
  · exact ⟨_, _, _, _, if_pos h, fun _ => if_pos h⟩
  · exact ⟨_, _, _, _, if_neg h, fun _ => if_neg h⟩

theorem execGbnTimeout_ignoresTimers (k : Word32) (s : State) : IgnoresTimers (execGbnTimeout k) s := by
  by_cases h : swEmpty s.snd || decide (k.toNat ≠ s.snd.base)
  · exact ⟨_, _, _, _, if_pos h, fun _ => if_pos h⟩
  · exact ⟨_, _, _, _, if_neg h, fun _ => if_neg h⟩

theorem execGbnAck_ignoresTimers (f : Frame) (s : State) : IgnoresTimers (execGbnAck f) s := by
  simp only [IgnoresTimers, execGbnAck, State.withTa_straps, State.withTa_snd]
  cases readAcknum s.straps f with
  | error d => exact raise_ignoresTimers .sender d s
  | ok a => exact ⟨_, _, _, _, rfl, fun _ => rfl⟩

theorem execSrAck_ignoresTimers (f : Frame) (s : State) : IgnoresTimers (execSrAck f) s := by
  simp only [IgnoresTimers, execSrAck, State.withTa_straps, State.withTa_snd]
  cases readAcknum s.straps f with
  | error d => exact raise_ignoresTimers .sender d s
  | ok a =>
    dsimp only
    cases swGet (swIndexOf s.straps.seqLen a s.snd) s.snd with
    | none => exact raise_ignoresTimers .sender .staleAck s
    | some e =>
      by_cases h : e.acked
      · exact ⟨_, _, _, _, if_pos h, fun _ => if_pos h⟩
      · exact ⟨_, _, _, _, if_neg h, fun _ => if_neg h⟩

theorem execSrTimeout_ignoresTimers (k : Word32) (s : State) : IgnoresTimers (execSrTimeout k) s := by
  obtain ⟨d, acts, -, h⟩ := execSrTimeout_actions k s
  exact ⟨.sender, d, acts, s, h s.ta s.out, fun ta => h ta s.out⟩

theorem countDuplicate_ignoresTimers (s : State) : IgnoresTimers countDuplicate s := by
  simp only [IgnoresTimers, countDuplicate, State.withTa_snd]
  by_cases h : s.snd.dup + 1 = Config.dupThresh
  · cases swGet 0 s.snd with
    | none => exact ⟨_, _, _, _, if_pos h, fun _ => if_pos h⟩
    | some e => exact ⟨_, _, _, _, if_pos h, fun _ => if_pos h⟩
  · exact ⟨_, _, _, _, if_neg h, fun _ => if_neg h⟩

theorem execTcpAck_ignoresTimers (f : Frame) (s : State) : IgnoresTimers (execTcpAck f) s := by
  simp only [IgnoresTimers, execTcpAck, State.withTa_straps, State.withTa_snd]
  cases readAcknum s.straps f with
  | error d => exact raise_ignoresTimers .sender d s
  | ok a =>
    by_cases hn : seqDist s.straps.seqLen a s.snd.base < s.snd.count
    · exact ⟨_, _, _, _, if_pos hn, fun _ => if_pos hn⟩
    simp only [hn, if_false]
    by_cases hp : seqDist s.straps.seqLen a s.snd.base = s.straps.seqLen - 1
    · simp only [hp, if_true]
      exact countDuplicate_ignoresTimers s
    · exact ⟨_, _, _, _, if_neg hp, fun _ => if_neg hp⟩

theorem execTcpTimeout_ignoresTimers (k : Word32) (s : State) : IgnoresTimers (execTcpTimeout k) s := by
  simp only [IgnoresTimers, execTcpTimeout, State.withTa_snd]
  cases swGet 0 s.snd with
  | none => exact raise_ignoresTimers .sender .spuriousTimeout s
  | some e =>
    by_cases h : k.toNat ≠ s.snd.base
    · exact ⟨_, _, _, _, if_pos h, fun _ => if_pos h⟩
    · exact ⟨_, _, _, _, if_neg h, fun _ => if_neg h⟩

/-- A receiver event reads nothing of the arbiter and writes nothing to it. -/
theorem exec_ignoresTimers_of_receiver {i : Instr} (h : i.kind.engine = .receiver) (s : State) : IgnoresTimers (exec i) s := by
  obtain ⟨d, acts, u, hcase, hdone⟩ := exec_cases i s
  obtain ⟨rcv, report, halone, hbeside⟩ := exec_isReceiverEvent h s
  rw [hdone, done_eq, Host.Outcome.next.injEq] at halone
  have hreport : ⟨some i.kind.engine, acts, some d⟩ = report := congrArg State.out halone
  have hexec (ta : List TimerCell) : exec i (s.withTa ta) = done i.kind.engine d acts ((s.withRcv rcv).withTa ta) := by
    rw [done_eq, applyTimerActions_of_receiver (h ▸ hcase.actions_engine), hreport]
    exact hbeside s.snd ta s.out
  exact ⟨_, _, _, _, hexec s.ta, hexec⟩

theorem exec_ignoresTimers (i : Instr) (s : State) : IgnoresTimers (exec i) s := by
  cases i with
  | gbnSend m | tcpSend m => exact sendFifo_ignoresTimers m s
  | srSend m => exact execSrSend_ignoresTimers m s
  | gbnAck f => exact execGbnAck_ignoresTimers f s
  | srAck f => exact execSrAck_ignoresTimers f s
  | tcpAck f => exact execTcpAck_ignoresTimers f s
  | gbnTimeout k => exact execGbnTimeout_ignoresTimers k s
  | srTimeout k => exact execSrTimeout_ignoresTimers k s
  | tcpTimeout k => exact execTcpTimeout_ignoresTimers k s
  | gbnData f | srData f | tcpData f => exact exec_ignoresTimers_of_receiver rfl s

/-! ## The arbiter's running bits -/

theorem running_eq_of_map_run (k : Nat) (ta : List TimerCell) : running k ta = (ta.map (·.run))[k]?.getD false := by
  rw [running, List.getElem?_map]

theorem map_run_timerStart (k : Nat) (d : Word32) (ta : List TimerCell) :
    (timerStart k d ta).map (·.run) = (ta.map (·.run)).set k true :=
  List.map_set

theorem map_run_timerStop (k : Nat) (ta : List TimerCell) :
    (timerStop k ta).map (·.run) = (ta.map (·.run)).modify k fun _ => false := by
  refine List.ext_getElem? fun j => ?_
  rw [timerStop, List.getElem?_map, List.getElem?_modify, List.getElem?_modify, List.getElem?_map]
  cases ta[j]? with
  | none => rfl
  | some c => by_cases h : k = j <;> simp [h]

theorem map_run_timerTick (ta : List TimerCell) : (timerTick ta).map (·.run) = ta.map (·.run) := by
  simp [timerTick]

section

variable {ta ta' : List TimerCell} (h : ta'.map (·.run) = ta.map (·.run))
include h

/-- The arbiter obeys alike, whatever the remaining times. -/
theorem map_run_applyTimerActions (acts : List Action) :
    (applyTimerActions acts ta').map (·.run) = (applyTimerActions acts ta).map (·.run) := by
  induction acts generalizing ta ta' with
  | nil => exact h
  | cons a acts ih =>
    refine ih ?_
    cases a with
    | tmrStart k d => exact (map_run_timerStart ..).trans (h ▸ (map_run_timerStart ..).symm)
    | tmrStop k => exact (map_run_timerStop ..).trans (h ▸ (map_run_timerStop ..).symm)
    | txData _ | txAck _ | deliver _ => exact h

theorem map_run_timerExpire (k : Nat) : (timerExpire k ta').map (·.run) = (timerExpire k ta).map (·.run) :=
  (map_run_timerStop ..).trans (h ▸ (map_run_timerStop ..).symm)

theorem running_congr (k : Nat) : running k ta' = running k ta := by
  rw [running_eq_of_map_run, running_eq_of_map_run, h]

end

/-! ## Steps -/

section

variable {k : Word32} {s : State}

theorem expire_of_stopped (h : running k.toNat s.ta = false) : expire k s = .refused (.timerNotRunning k) := by
  simp [expire, h]

theorem expire_eq_serve (h : running k.toNat s.ta = true) :
    expire k s = serve (timeoutWord s.straps.payloadSize k) (s.withTa (timerExpire k.toNat s.ta)) :=
  if_pos h

end

/-- `r'` is `r` up to remaining times. -/
def SameUpToTimes (r r' : Result) : Prop :=
  (∀ t, r = .next t → ∃ t', r' = .next t' ∧ t' = { t with ta := t'.ta } ∧ t'.ta.map (·.run) = t.ta.map (·.run)) ∧
    ∀ e, r = .refused e → r' = .refused e

theorem sameUpToTimes_next {u : State} {ta ta' : List TimerCell} (h : ta'.map (·.run) = ta.map (·.run)) :
    SameUpToTimes (.next (u.withTa ta)) (.next (u.withTa ta')) :=
  ⟨fun _ ht => ⟨_, rfl, by cases ht; rfl, by cases ht; exact h⟩, nofun⟩

theorem sameUpToTimes_refused (e : Refusal) : SameUpToTimes (.refused e) (.refused e) := ⟨nofun, fun _ => id⟩

section

variable {s : State} {ta ta' : List TimerCell} (h : ta'.map (·.run) = ta.map (·.run))
include h

theorem exec_sameUpToTimes (i : Instr) : SameUpToTimes (exec i (s.withTa ta)) (exec i (s.withTa ta')) := by
  obtain ⟨e, d, acts, u, -, hexec⟩ := exec_ignoresTimers i s
  rw [hexec, hexec, done_eq, done_eq]
  exact sameUpToTimes_next (u := u.withOut ⟨some e, acts, some d⟩) (map_run_applyTimerActions h acts)

theorem serve_sameUpToTimes (w : List Byte) : SameUpToTimes (serve w (s.withTa ta)) (serve w (s.withTa ta')) := by
  simp only [serve, State.withTa_straps]
  cases decode s.straps.variant s.straps.payloadSize w with
  | ok i => exact exec_sameUpToTimes h i
  | error r =>
    cases r with
    | reservedVariant | reservedKind => exact sameUpToTimes_next (u := refuseWord w s) h
    | wrongLength => exact sameUpToTimes_refused _

theorem expire_sameUpToTimes (k : Word32) : SameUpToTimes (expire k (s.withTa ta)) (expire k (s.withTa ta')) := by
  have hrun := running_congr h k.toNat
  cases hk : running k.toNat ta with
  | false =>
    rw [expire_of_stopped (s := s.withTa ta) hk, expire_of_stopped (s := s.withTa ta') (hrun.trans hk)]
    exact sameUpToTimes_refused _
  | true =>
    rw [expire_eq_serve (s := s.withTa ta) hk, expire_eq_serve (s := s.withTa ta') (hrun.trans hk)]
    exact serve_sameUpToTimes (s := s) (map_run_timerExpire h _) _

theorem step_sameUpToTimes : SameUpToTimes (step (s.withTa ta)) (step (s.withTa ta')) := by
  cases hin : s.inputs with
  | nil =>
    rw [step_idle (s := s.withTa ta) hin, step_idle (s := s.withTa ta') hin]
    exact sameUpToTimes_next (u := idle s) h
  | cons x rest =>
    cases x with
    | event w =>
      rw [step_event (s := s.withTa ta) hin, step_event (s := s.withTa ta') hin]
      exact serve_sameUpToTimes (s := s.withInputs rest) h w
    | expire k =>
      rw [step_expire (s := s.withTa ta) hin, step_expire (s := s.withTa ta') hin]
      exact expire_sameUpToTimes (s := s.withInputs rest) h k
    | tick =>
      rw [step_tick (s := s.withTa ta) hin, step_tick (s := s.withTa ta') hin]
      exact sameUpToTimes_next (u := (s.withInputs rest).withOut Report.silent)
        ((map_run_timerTick ta').trans (h.trans (map_run_timerTick ta).symm))
    | rst v T =>
      rw [step_rst (s := s.withTa ta) hin, step_rst (s := s.withTa ta') hin]
      exact sameUpToTimes_next (u := resetBlock v T (s.withInputs rest)) rfl

end

/-- Settles O45: no part of a step reads a remaining time. -/
theorem remainingTimesAreInvisible : Obligations.RemainingTimesAreInvisible :=
  fun s _ h => step_sameUpToTimes (s := s) (ta := s.ta) h

end Sys2Proof.Machine
end
